-- ==== Sys2Proof/Word.lean ====
section
/-! DEFINITION. The plain data of NML-CORE: bytes, pixel triples, phases, byte classes, the dispatch
vector's fields, the correction table's selectors, and sparse memories. -/

namespace Sys2Proof

/-- A byte, `0..255`; bit 0 is the least significant (R12). -/
abbrev Byte := BitVec 8

/-- A pixel or triple: an ordered `(R, G, B)` of three bytes (R12). -/
structure Pixel where
  r : Byte
  g : Byte
  b : Byte
  deriving DecidableEq, Repr, Inhabited

/-- The values PHASE can hold: the six legal ones of R21 and the two illegal codes 6 and 7 (R91). -/
inductive Phase where
  | seek1
  | seek2
  | read
  | apply
  | correct
  | present
  | code6
  | code7
  deriving DecidableEq, Repr

/-- The three classes of a byte taken in SEEK1 or SEEK2 (R86). -/
inductive ByteClass where
  | m1
  | m2
  | other
  deriving DecidableEq, Repr

/-- The fields of the 11-bit dispatch vector SEL, from bit 10 down to bit 0 (R87). -/
structure Sel where
  rst   : Bool
  phase : BitVec 3
  v     : Bool
  m1    : Bool
  m2    : Bool
  exp   : Bool
  lst   : Bool
  done  : Bool
  cz    : Bool
  deriving DecidableEq, Repr

/-- A channel selector of a correction table entry (R85). The reserved selector value 3 has no constructor:
the type cannot hold it (R91, U8). -/
inductive Channel where
  | red
  | green
  | blue
  deriving DecidableEq, Repr

/-- A correction table entry: which input channel each output channel takes (R85). -/
structure LutEntry where
  selR : Channel
  selG : Channel
  selB : Channel
  deriving DecidableEq, Repr

/-- A sparse memory: `(address, cell)` pairs, addresses strictly rising. An address it does not list is
UNWRITTEN (R221, U4). -/
abbrev Mem (α : Type) := List (Nat × α)

/-- R20: the number of bits needed to write `n` in binary, `bitlen 0 = 1`. -/
def bitlen (n : Nat) : Nat :=
  if n = 0 then 1 else Nat.log2 n + 1

end Sys2Proof
end

