-- ==== Sys2Proof/Config.lean ====
section
/-! DEFINITION. The build-time configuration record CFG (R8, R9), the configuration the reset state carries,
and the free values: what the spec leaves open, as constants without a body. -/

namespace Sys2Proof

/-- The physical wiring order, CFG field `ADDR_SCHEME` (R8, R84). `own` is the bijection a device wired otherwise
must supply (R170, R172, U9, D12), written as data: entry `k` is the physical index of payload pixel `k`. -/
inductive AddrScheme where
  | linear
  | serpentine
  | own (table : List Nat)
  deriving DecidableEq, Repr

/-- The configuration record CFG (R8). -/
structure Cfg where
  width         : Nat
  height        : Nat
  marker1       : Byte
  marker2       : Byte
  addrScheme    : AddrScheme
  corrN         : Nat
  timeoutCycles : Nat
  deriving DecidableEq, Repr

/-- R9: `NUM_PIXELS = WIDTH * HEIGHT`. -/
def Cfg.numPixels (c : Cfg) : Nat := c.width * c.height

/-- R9: `DATA_LENGTH = WIDTH * HEIGHT * 3`. -/
def Cfg.dataLength (c : Cfg) : Nat := c.width * c.height * 3

/-- R9: `FRAME_LENGTH = DATA_LENGTH + 2`. -/
def Cfg.frameLength (c : Cfg) : Nat := c.dataLength + 2

/-- The configuration `State.reset` carries. The markers are the spec's defaults (R8, R11); the spec leaves every
other field OPEN (D16), and the values here are those of its test configuration CFG-B: DESIGN CHOICE, log entry 2.
Statements quantify over every valid configuration. -/
def Config.build : Cfg where
  width := 4
  height := 3
  marker1 := 0xA5#8
  marker2 := 0x5A#8
  addrScheme := .serpentine
  corrN := 2
  timeoutCycles := 36

/-- Free value (R34, R221, U4): the byte an unwritten PBUF offset holds, in the power-up or reset epoch given
first. Log entry 3. -/
opaque Config.freePbufByte : Nat → Nat → Byte

/-- Free value (R34, R221, U4): the triple an unwritten PIX index holds, in the epoch given first. Log entry 3. -/
opaque Config.freePixel : Nat → Nat → Pixel

/-- Free value (R31, R56, U5): `disp_data_o` where the spec says "any value", in the cycle given first, at the
address given second. Log entry 4. -/
opaque Config.freeDispWord : Nat → Nat → BitVec 24

/-- Free value (R51, U12): `rx_data_i` in a cycle with `rx_valid_i = 0`. Log entry 4. -/
opaque Config.freeRxData : Nat → Byte

end Sys2Proof
end

