-- ==== Sys2Proof/Syntax.lean ====
section
/-! DEFINITION. The instruction set: the 19 single-cycle operations of the sequencer (R4, R89), one constructor per
row of the opcode table. -/

namespace Sys2Proof

/-- The operations of R89. None has an operand field in SEL: an operation's operands are registers, memory cells and
the byte offered at the stream-in port, which its meaning reads from the state. -/
inductive Instr where
  | reset
  | s1Wait
  | s1Miss
  | s1Hit
  | s2Wait
  | s2Again
  | s2Start
  | s2Miss
  | rpWait
  | rpStore
  | rpLast
  | rpTimeout
  | illRecover
  | mwWrpix
  | mwWrlast
  | mwSwap
  | mwSwlast
  | mwHold
  | mwDone
  deriving DecidableEq, Repr

end Sys2Proof
end

