-- ==== Sys2Proof/WellFormed.lean ====
section
/-! DEFINITION. What counts as a configuration of NML-CORE (R10), and which dispatch vectors can occur (R88, R90).
An `Instr` has no operand, so every term of it is well-formed; what can be ill-formed here is a configuration or a
vector. -/

namespace Sys2Proof

/-- A mapping table is a bijection onto `[0, n)` (R170): `n` entries, each below `n`, none twice. -/
def AddrScheme.bijective (n : Nat) : AddrScheme → Bool
  | .linear => true
  | .serpentine => true
  | .own t => t.length == n && t.all (fun i => decide (i < n)) && decide t.Nodup

/-- R10 (a) to (d), and R170 for a mapping the device supplies. A record that fails this is not a configuration of
NML-CORE: the step refuses it (U7). -/
def Cfg.valid (c : Cfg) : Bool :=
  decide (1 ≤ c.width) && decide (1 ≤ c.height) && decide (c.marker1 ≠ c.marker2) &&
    decide (c.corrN ≤ c.width) && decide (c.dataLength ≤ c.timeoutCycles) &&
    c.addrScheme.bijective c.numPixels

/-- The dispatch vectors that can occur: not both marker bits (R90 (a)), no marker bit without an offered byte (as the
spec's vectors compute it), `exp` only in READ, `lst` only in READ, APPLY and CORRECT (R88). -/
def Sel.wellFormed (x : Sel) : Bool :=
  !(x.m1 && x.m2) && (x.v || (!x.m1 && !x.m2)) && (!x.exp || x.phase == 2) &&
    (!x.lst || x.phase == 2 || x.phase == 3 || x.phase == 4)

end Sys2Proof
end

