-- ==== Sys2Proof/Decode.lean ====
section
/-! DEFINITION. Encodings: PHASE codes (R83), the dispatch vector's bits (R87), the operation map as match and mask
(R89), the decoder, and after it the encoder. -/

namespace Sys2Proof

/-- R83: the 3-bit PHASE code. -/
def Phase.code : Phase → BitVec 3
  | .seek1   => 0
  | .seek2   => 1
  | .read    => 2
  | .apply   => 3
  | .correct => 4
  | .present => 5
  | .code6   => 6
  | .code7   => 7

/-- The PHASE value of a 3-bit code (R83, R91). -/
def Phase.ofCode (c : BitVec 3) : Phase :=
  match c.toNat with
  | 0 => .seek1
  | 1 => .seek2
  | 2 => .read
  | 3 => .apply
  | 4 => .correct
  | 5 => .present
  | 6 => .code6
  | _ => .code7

/-- R21, R91: codes 6 and 7 are not legal values. -/
def Phase.legal : Phase → Bool
  | .code6 => false
  | .code7 => false
  | _      => true

/-- R87: SEL as a word, each field times its weight. -/
def Sel.pack (x : Sel) : BitVec 11 :=
  BitVec.ofNat 11
    (x.rst.toNat * 0x400 + x.phase.toNat * 0x080 + x.v.toNat * 0x040 + x.m1.toNat * 0x020 +
      x.m2.toNat * 0x010 + x.exp.toNat * 0x008 + x.lst.toNat * 0x004 + x.done.toNat * 0x002 +
      x.cz.toNat * 0x001)

/-- R87: the fields of an 11-bit word read as SEL. -/
def Sel.unpack (w : BitVec 11) : Sel where
  rst   := w.getLsbD 10
  phase := w.extractLsb' 7 3
  v     := w.getLsbD 6
  m1    := w.getLsbD 5
  m2    := w.getLsbD 4
  exp   := w.getLsbD 3
  lst   := w.getLsbD 2
  done  := w.getLsbD 1
  cz    := w.getLsbD 0

/-- The name of an operation in the opcode table (R89). -/
def Instr.mnemonic : Instr → String
  | .reset      => "RESET"
  | .s1Wait     => "S1.WAIT"
  | .s1Miss     => "S1.MISS"
  | .s1Hit      => "S1.HIT"
  | .s2Wait     => "S2.WAIT"
  | .s2Again    => "S2.AGAIN"
  | .s2Start    => "S2.START"
  | .s2Miss     => "S2.MISS"
  | .rpWait     => "RP.WAIT"
  | .rpStore    => "RP.STORE"
  | .rpLast     => "RP.LAST"
  | .rpTimeout  => "RP.TIMEOUT"
  | .illRecover => "ILL.RECOVER"
  | .mwWrpix    => "MW.WRPIX"
  | .mwWrlast   => "MW.WRLAST"
  | .mwSwap     => "MW.SWAP"
  | .mwSwlast   => "MW.SWLAST"
  | .mwHold     => "MW.HOLD"
  | .mwDone     => "MW.DONE"

/-- R89, column "match". -/
def Instr.matchBits : Instr → BitVec 11
  | .reset      => 0x400#11
  | .s1Wait     => 0x000#11
  | .s1Miss     => 0x040#11
  | .s1Hit      => 0x060#11
  | .s2Wait     => 0x080#11
  | .s2Again    => 0x0E0#11
  | .s2Start    => 0x0D0#11
  | .s2Miss     => 0x0C0#11
  | .rpWait     => 0x100#11
  | .rpStore    => 0x140#11
  | .rpLast     => 0x144#11
  | .rpTimeout  => 0x108#11
  | .illRecover => 0x300#11
  | .mwWrpix    => 0x180#11
  | .mwWrlast   => 0x184#11
  | .mwSwap     => 0x200#11
  | .mwSwlast   => 0x204#11
  | .mwHold     => 0x280#11
  | .mwDone     => 0x282#11

/-- R89, column "mask": the bits an operation's row looks at. -/
def Instr.maskBits : Instr → BitVec 11
  | .reset      => 0x400#11
  | .s1Wait     => 0x7C0#11
  | .s1Miss     => 0x7E0#11
  | .s1Hit      => 0x7E0#11
  | .s2Wait     => 0x7C0#11
  | .s2Again    => 0x7F0#11
  | .s2Start    => 0x7D0#11
  | .s2Miss     => 0x7F0#11
  | .rpWait     => 0x7C8#11
  | .rpStore    => 0x7CC#11
  | .rpLast     => 0x7CC#11
  | .rpTimeout  => 0x788#11
  | .illRecover => 0x700#11
  | .mwWrpix    => 0x784#11
  | .mwWrlast   => 0x784#11
  | .mwSwap     => 0x784#11
  | .mwSwlast   => 0x784#11
  | .mwHold     => 0x782#11
  | .mwDone     => 0x782#11

/-- The rows of R89 in the table's order. -/
def Instr.all : List Instr :=
  [.reset, .s1Wait, .s1Miss, .s1Hit, .s2Wait, .s2Again, .s2Start, .s2Miss] ++
    [.rpWait, .rpStore, .rpLast, .rpTimeout, .illRecover] ++
    [.mwWrpix, .mwWrlast, .mwSwap, .mwSwlast, .mwHold, .mwDone]

/-- R89: "An operation executes in a cycle exactly when `SEL and mask = match`." -/
def Instr.selects (i : Instr) (w : BitVec 11) : Bool :=
  w &&& i.maskBits == i.matchBits

/-- The operation an 11-bit dispatch vector selects. The rows need no priority order (R89). -/
def decodeSel (w : BitVec 11) : Option Instr :=
  Instr.all.find? fun i => i.selects w

/-- Why the decoder refuses a number as a dispatch vector. -/
inductive Reject where
  /-- fewer bits than SEL has -/
  | fewerThanElevenBits
  /-- a bit above bit 10 is set: SEL has 11 bits (R87) -/
  | bitAboveTen
  /-- no row of R89 matches; the rows partition all vectors, so this does not happen -/
  | noRow
  deriving DecidableEq, Repr

/-- The decoder on any number: total, and refusing by name. -/
def decode (nbits w : Nat) : Except Reject Instr :=
  if nbits < 11 then .error .fewerThanElevenBits
  else if 2 ^ 11 ≤ w then .error .bitAboveTen
  else
    match decodeSel (BitVec.ofNat 11 w) with
    | some i => .ok i
    | none => .error .noRow

/-- The instruction the decoder reads from a word numbered as the opcode table numbers it (SEL in its low 11 bits). -/
def decodeTableWord (nbits w : Nat) : Option Instr :=
  (decode nbits w).toOption

/-- The encoder: the dispatch vector of an operation with every bit its row ignores at 0. -/
def encode (i : Instr) : BitVec 11 :=
  i.matchBits

/-- Every dispatch vector of an operation: the ignored bits taken from `x`. -/
def encodeWith (i : Instr) (x : BitVec 11) : BitVec 11 :=
  (x &&& ~~~i.maskBits) ||| i.matchBits

end Sys2Proof
end

