-- ==== Sys2Proof/Machine/State.lean ====
section
/-! DEFINITION. The machine's state as plain data, its outputs, the reasons a step can stop, and the state after
reset. -/

namespace Sys2Proof.Machine

/-- A byte that reaches the input buffer in a cycle. `keep` is the environment's choice, left open by R53 and U10:
whether the byte survives a flush in that very cycle. -/
structure Arrival where
  byte : Byte
  keep : Bool
  deriving DecidableEq, Repr

/-- What the outside world does in one clock cycle: the inputs `rst_i`, `pres_done_i`, `disp_addr_i` (R30; of the
address the port carries the bits it has, `State.dispAddr`), and the
bytes the transport appends to INQ at the start of the cycle (R52, R93). -/
structure CycleIn where
  rst      : Bool
  arrivals : List Arrival
  done     : Bool
  dispAddr : Nat
  deriving DecidableEq, Repr

/-- A cycle in which the outside world does nothing. -/
def CycleIn.idle : CycleIn where
  rst := false
  arrivals := []
  done := false
  dispAddr := 0

/-- The state. First what the spec gives NML-CORE (R20), then the environment state a model must carry (R33), then the
model's own counters, which only index free values. -/
structure State where
  /-- CFG (R8). It is not state of the hardware (R20): no operation writes it. Log entry 1. -/
  cfg      : Cfg
  /-- PHASE (R21) -/
  phase    : Phase
  /-- RXCNT (R22) -/
  rxcnt    : Nat
  /-- TMR (R23) -/
  tmr      : Nat
  /-- PX (R24) -/
  px       : Nat
  /-- PY (R24) -/
  py       : Nat
  /-- PBUF (R25): payload offset to byte -/
  pbuf     : Mem Byte
  /-- PIX (R26): physical index to triple -/
  pix      : Mem Pixel
  /-- INQ (R33, R52): the environment's input queue, oldest byte first -/
  inq      : List Byte
  /-- `INQ_DEPTH` (R52): `none` is unbounded -/
  inqDepth : Option Nat
  /-- the inputs standing at the ports in the current cycle (R30) -/
  inp      : CycleIn
  /-- the inputs of the cycles to come, next one first: arrivals, reset, and the display driver's progress (R33);
  when it is used up the outside world is idle (log entry 5) -/
  sched    : List CycleIn
  /-- the model's own: how many cycles have begun; indexes the free values of the ports -/
  cycle    : Nat
  /-- the model's own: how many RESET operations have executed; indexes the free memory contents -/
  epoch    : Nat
  deriving DecidableEq, Repr

/-- Why a step stops with a fault. -/
inductive Fault where
  /-- Raised by the step's start when the transport appends to a full INQ: "outside the claim", no loss policy is
  chosen (R72, U1). Safe: it stops where the hardware goes on. -/
  | inqOverflow
  /-- Raised by an operation that takes a byte when none is offered (R13, `pop()`). The dispatch never selects one then.
  Safe. -/
  | noByteOffered
  /-- Raised by an access to PBUF at or beyond `DATA_LENGTH`, an address that does not exist (R13, R54). The invariant
  of R32 excludes it. Safe. -/
  | pbufRange
  /-- Raised by an access to PIX at or beyond `NUM_PIXELS`, an index that does not exist (R13, R55). The invariant of
  R32 excludes it. Safe. -/
  | pixRange
  deriving DecidableEq, Repr

/-- Why a step is refused. -/
inductive Refusal where
  /-- Raised by an arm of `exec` for an operation without a meaning. No arm does so: all 19 have theirs. Safe. -/
  | notModelled (mnemonic : String)
  /-- Raised by the step when CFG breaks a constraint of R10: "a model must refuse it" (U7). Safe. -/
  | badConfig
  /-- Raised by the step if no row of R89 matches the dispatch vector; the rows match every vector, so never. Safe. -/
  | noOperation
  deriving DecidableEq, Repr

/-- The outcome of an operation. -/
abbrev Out := Host.Outcome State Fault Refusal

/-- NML-CORE's five outputs (R30). -/
structure Outputs where
  rxReady  : Bool
  rxFlush  : Bool
  errTrunc : Bool
  presReq  : Bool
  dispData : BitVec 24
  deriving DecidableEq, Repr

/-- The error taxonomy (R190), E1 to E3 of R194. -/
inductive ErrorCause where
  | resync
  | truncatedPayload
  | configuration
  deriving DecidableEq, Repr

/-- What NML-CORE shows the outside world beyond its handshakes (R152, R236): the truncated-payload pulse, and an image
handed to the display driver, listed by physical index. -/
inductive Event where
  | truncatedPayload
  | present (image : List Pixel)
  deriving DecidableEq, Repr

/-- The Frame Decoder's states in the per-byte view of R95. -/
inductive FdState where
  | seek1
  | seek2
  | read (n : Nat)
  deriving DecidableEq, Repr

/-- The effects of the per-byte view of R95. -/
inductive FdEffect where
  /-- no effect, or the byte (the candidate) is discarded -/
  | nothing
  /-- start the timer -/
  | startTimer
  /-- store the byte at a payload offset -/
  | store (offset : Nat) (b : Byte)
  /-- store the byte and hand the complete payload to the Matrix Writer -/
  | handOver (offset : Nat) (b : Byte)
  deriving DecidableEq, Repr

/-- The state right after a reset of an NML-CORE with configuration `c` (R34): SEEK1, counters 0, both memories
unwritten; INQ empty, unbounded, and an idle environment (log entries 5 and 6). -/
def State.powerUp (c : Cfg) : State where
  cfg := c
  phase := .seek1
  rxcnt := 0
  tmr := 0
  px := 0
  py := 0
  pbuf := []
  pix := []
  inq := []
  inqDepth := none
  inp := CycleIn.idle
  sched := []
  cycle := 0
  epoch := 0

/-- The machine right after reset (R34), with the configuration of `Config.build` (log entry 2). -/
def State.reset : State := State.powerUp Config.build

end Sys2Proof.Machine
end

