-- ==== Sys2Proof/Machine/Ops.lean ====
section
/-! DEFINITION. The operations the meanings share: sparse memories, the stream-in port (R51 to R53), PBUF and PIX
(R13, R54, R55), the truncation trap (R198), and the start of a clock cycle. -/

namespace Sys2Proof

/-- The cell a memory lists at an address; `none` where it lists none (unwritten). -/
def Mem.read {α : Type} : Mem α → Nat → Option α
  | [], _ => none
  | (k, v) :: rest, a => if k = a then some v else Mem.read rest a

/-- The memory with one cell replaced, in rising order of addresses. -/
def Mem.write {α : Type} : Mem α → Nat → α → Mem α
  | [], a, v => [(a, v)]
  | (k, w) :: rest, a, v =>
    if a < k then (a, v) :: (k, w) :: rest
    else if a = k then (a, v) :: rest
    else (k, w) :: Mem.write rest a v

/-- The canonical form: addresses strictly rising. What an unlisted address reads as is "unwritten", which no entry can
equal. -/
def Mem.wf {α : Type} : Mem α → Bool
  | [] => true
  | [_] => true
  | (k, _) :: (k', w) :: rest => decide (k < k') && Mem.wf ((k', w) :: rest)

/-- Every listed address is below `n`. -/
def Mem.below {α : Type} (m : Mem α) (n : Nat) : Bool :=
  m.all fun e => decide (e.1 < n)

namespace Machine

/-- The byte at a PBUF offset: the one written last, or a free value where nothing was written since the last reset
(R221, U4). -/
def State.pbufByte (s : State) (o : Nat) : Byte :=
  (Mem.read s.pbuf o).getD (Config.freePbufByte s.epoch o)

/-- The triple at a PIX index, likewise. -/
def State.pixel (s : State) (i : Nat) : Pixel :=
  (Mem.read s.pix i).getD (Config.freePixel s.epoch i)

/-- `pop()` (R13, R51): the head of INQ is taken and the queue drops it. -/
def State.takeByte (s : State) (k : Byte → State → Out) : Out :=
  match s.inq with
  | [] => .fault .noByteOffered
  | b :: rest => k b { s with inq := rest }

/-- `MemWrite(PBUF, o, 1, b)` (R13, R54). -/
def State.writePbuf (s : State) (o : Nat) (b : Byte) (k : State → Out) : Out :=
  if o < s.cfg.dataLength then k { s with pbuf := Mem.write s.pbuf o b } else .fault .pbufRange

/-- `MemRead(PBUF, a, 3)` (R13, R54): three consecutive bytes, in the order R, G, B of rising offsets (R57). -/
def State.readPbuf3 (s : State) (a : Nat) (k : Pixel → Out) : Out :=
  if a + 3 ≤ s.cfg.dataLength then k ⟨s.pbufByte a, s.pbufByte (a + 1), s.pbufByte (a + 2)⟩
  else .fault .pbufRange

/-- `MemWrite(PIX, i, 1, p)` (R13, R55): the whole triple is replaced. -/
def State.writePix (s : State) (i : Nat) (p : Pixel) (k : State → Out) : Out :=
  if i < s.cfg.numPixels then k { s with pix := Mem.write s.pix i p } else .fault .pixRange

/-- `MemRead(PIX, i, 1)` (R13, R55): the whole triple. -/
def State.readPix (s : State) (i : Nat) (k : Pixel → Out) : Out :=
  if i < s.cfg.numPixels then k (s.pixel i) else .fault .pixRange

/-- R53, U10: what INQ holds after a flush in the current cycle: of the bytes that arrived in this very cycle, those
the environment keeps. -/
def State.flushed (s : State) : List Byte :=
  (s.inp.arrivals.filter fun a => a.keep).map fun a => a.byte

/-- Entry of the truncation trap (R198): nothing is saved, RXCNT and TMR are cleared, the input buffer is flushed, and
the machine goes to the fixed destination SEEK1. There is no return operation (R200). -/
def State.truncationTrap (s : State) : State :=
  { s with phase := .seek1, rxcnt := 0, tmr := 0, inq := s.flushed }

/-- The inputs of the next cycle come to the ports. -/
def State.latch (s : State) : State :=
  { s with inp := s.sched.headD CycleIn.idle, sched := s.sched.tail, cycle := s.cycle + 1 }

/-- R72, U1: the bytes arriving in the current cycle do not fit into INQ. -/
def State.overflows (s : State) : Bool :=
  match s.inqDepth with
  | none => false
  | some d => !s.inp.arrivals.isEmpty && decide (d < s.inq.length + s.inp.arrivals.length)

/-- R52, R93: the bytes arriving in the current cycle are appended to INQ. -/
def State.receive (s : State) : State :=
  { s with inq := s.inq ++ s.inp.arrivals.map fun a => a.byte }

/-- The start of a clock cycle: inputs at the ports, arrivals in INQ. -/
def State.beginCycle (s : State) : State :=
  s.latch.receive

/-- The next cycle's arrivals overflow INQ (U1). -/
def State.willOverflow (s : State) : Bool :=
  s.latch.overflows

end Machine

end Sys2Proof
end

