-- ==== Sys2Proof/Machine/Mapper.lean ====
section
/-! DEFINITION. The two combinational functions of the Matrix Writer, the addressing mapper (R170 to R173) and the
correction lookup (R174 to R176), and the assembly of payload offsets (R81) and pixel words (R82). -/

namespace Sys2Proof

/-- R171, R172: `MAP(x, y)`, the physical index of a logical coordinate. For a device's own table (R170) the entry of
payload pixel `y * WIDTH + x`. -/
def Cfg.map (c : Cfg) (x y : Nat) : Nat :=
  match c.addrScheme with
  | .linear => y * c.width + x
  | .serpentine =>
    if y % 2 = 0 then y * c.width + x else y * c.width + (c.width - 1 - x)
  | .own t => t.getD (y * c.width + x) c.numPixels

/-- R173: the logical coordinate of a physical index, the inverse of `MAP`. -/
def Cfg.unmap (c : Cfg) (i : Nat) : Nat × Nat :=
  match c.addrScheme with
  | .linear => (i % c.width, i / c.width)
  | .serpentine =>
    if i / c.width % 2 = 0 then (i % c.width, i / c.width)
    else (c.width - 1 - i % c.width, i / c.width)
  | .own t => (t.idxOf i % c.width, t.idxOf i / c.width)

/-- R84: the 1-bit `ADDR_SCHEME` code; a device's own bijection has none. -/
def AddrScheme.code : AddrScheme → Option (BitVec 1)
  | .linear => some 0
  | .serpentine => some 1
  | .own _ => none

/-- R174: `REGION(x, y) = 1`. -/
def Cfg.region (c : Cfg) (x y : Nat) : Bool :=
  decide (y + 1 = c.height) && decide (x < c.corrN)

/-- R85, R175: `CORR_LUT`, indexed by the region number. -/
def corrLut (region : Bool) : LutEntry :=
  match region with
  | false => ⟨.red, .green, .blue⟩
  | true => ⟨.green, .red, .blue⟩

/-- R85: the 2-bit code of a channel selector. -/
def Channel.code : Channel → BitVec 2
  | .red => 0
  | .green => 1
  | .blue => 2

/-- R85, R91: the selector of a 2-bit code; 3 is reserved and refused (U8). -/
def Channel.ofCode (c : BitVec 2) : Option Channel :=
  match c.toNat with
  | 0 => some .red
  | 1 => some .green
  | 2 => some .blue
  | _ => none

/-- R85: the 6-bit code of a table entry, `selR` in bits 5:4, `selG` in 3:2, `selB` in 1:0. -/
def LutEntry.code (e : LutEntry) : BitVec 6 :=
  BitVec.ofNat 6 (e.selR.code.toNat * 16 + e.selG.code.toNat * 4 + e.selB.code.toNat)

/-- R176: `pick`. -/
def Pixel.pick (t : Pixel) : Channel → Byte
  | .red => t.r
  | .green => t.g
  | .blue => t.b

/-- R176: `PERMUTE(e, t)`. -/
def LutEntry.permute (e : LutEntry) (t : Pixel) : Pixel :=
  ⟨t.pick e.selR, t.pick e.selG, t.pick e.selB⟩

/-- R82: the pixel word `{R, G, B}`: R in bits 23:16, G in 15:8, B in 7:0. -/
def Pixel.word (t : Pixel) : BitVec 24 :=
  t.r ++ t.g ++ t.b

/-- R81: the payload pixel number of an offset. -/
def payloadPixel (o : Nat) : Nat := o / 3

/-- R81: the channel of an offset, 0 = R, 1 = G, 2 = B. -/
def payloadChannel (o : Nat) : Nat := o % 3

/-- R81: the logical column of a payload pixel. -/
def Cfg.column (c : Cfg) (k : Nat) : Nat := k % c.width

/-- R81: the logical row of a payload pixel. -/
def Cfg.row (c : Cfg) (k : Nat) : Nat := k / c.width

/-- R54: the payload pixel number of a logical coordinate. -/
def Cfg.pixelNumber (c : Cfg) (x y : Nat) : Nat := y * c.width + x

/-- R81: the payload offset of a channel of a logical coordinate. -/
def Cfg.payloadOffset (c : Cfg) (x y ch : Nat) : Nat := 3 * c.pixelNumber x y + ch

/-- R80: the bytes of a frame with a given payload. -/
def Cfg.frame (c : Cfg) (payload : List Byte) : List Byte :=
  c.marker1 :: c.marker2 :: payload

end Sys2Proof
end

