-- ==== Sys2Proof/Machine/Operands.lean ====
section
/-! DEFINITION. What an operation can read besides registers and memories: the stream-in port's two inputs and the
class of the offered byte, and the outputs of the cycle, all functions of the state (R30, R31, R86). -/

namespace Sys2Proof

/-- R86: the class of a byte taken in SEEK1 or SEEK2. -/
def Cfg.classify (c : Cfg) (b : Byte) : ByteClass :=
  if b = c.marker1 then .m1 else if b = c.marker2 then .m2 else .other

/-- R30: the width of `disp_addr_i`. -/
def Cfg.dispAddrWidth (c : Cfg) : Nat := max 1 (bitlen (c.numPixels - 1))

namespace Machine

/-- R52: `rx_valid_i`. -/
def State.rxValid (s : State) : Bool := !s.inq.isEmpty

/-- R52: `rx_data_i`, the oldest byte in INQ; any value when there is none (U12). -/
def State.rxData (s : State) : Byte := s.inq.headD (Config.freeRxData s.cycle)

/-- R30: `disp_addr_i`, the low `dispAddrWidth` bits of the number the environment gives: what the port can carry (log
entry 19). -/
def State.dispAddr (s : State) : Nat := s.inp.dispAddr % 2 ^ s.cfg.dispAddrWidth

/-- R31: `exp`, the READ timer has expired. -/
def State.expired (s : State) : Bool :=
  decide (s.phase = .read) && decide (s.tmr = s.cfg.timeoutCycles)

/-- R31: `rx_ready_o`. -/
def State.rxReady (s : State) : Bool :=
  decide (s.phase = .seek1) || decide (s.phase = .seek2) || (decide (s.phase = .read) && !s.expired)

/-- R31, R192: the pulse on `rx_flush_o` and `err_trunc_o`: the READ timer has expired; none in a RESET cycle (R220, R231,
D2; log entry 7). -/
def State.truncationPulse (s : State) : Bool := s.expired && !s.inp.rst

/-- R31: `pres_req_o`. -/
def State.presReq (s : State) : Bool := decide (s.phase = .present)

/-- R31, R56: `disp_data_o`: the addressed triple while PIX is handed over and the index exists; any value
otherwise (U5). -/
def State.dispData (s : State) : BitVec 24 :=
  if s.phase = .present ∧ s.dispAddr < s.cfg.numPixels then (s.pixel s.dispAddr).word
  else Config.freeDispWord s.cycle s.dispAddr

/-- R31: the outputs of the current cycle. -/
def State.outputs (s : State) : Outputs where
  rxReady := s.rxReady
  rxFlush := s.truncationPulse
  errTrunc := s.truncationPulse
  presReq := s.presReq
  dispData := s.dispData

/-- R51, R220: what the handshake alone leaves of INQ: a byte offered while `rx_ready_o` is 1 leaves, and otherwise INQ
stays as it is. -/
def State.inqAfterReady (s : State) : List Byte :=
  if s.rxReady then s.inq.tail else s.inq

/-- R152: the content of PIX by physical index. -/
def State.image (s : State) : List Pixel :=
  (List.range s.cfg.numPixels).map s.pixel

/-- R81, R141: the triple PBUF holds for a logical coordinate. -/
def State.payloadTriple (s : State) (x y : Nat) : Pixel :=
  ⟨s.pbufByte (3 * s.cfg.pixelNumber x y), s.pbufByte (3 * s.cfg.pixelNumber x y + 1),
    s.pbufByte (3 * s.cfg.pixelNumber x y + 2)⟩

end Machine

end Sys2Proof
end

