-- ==== Sys2Proof/Machine/Flags.lean ====
section
/-! DEFINITION. The condition bits (R28, R88): NML-CORE stores no flags; these seven predicates are computed anew in
every cycle, and with `rst_i` and PHASE they form the dispatch vector SEL (R87). -/

namespace Sys2Proof.Machine

/-- R88: `v`. -/
def State.condV (s : State) : Bool := s.rxValid

/-- R88: `m1`, 0 when no byte is offered (as the spec's vectors show it, log entry 8). -/
def State.condM1 (s : State) : Bool := s.rxValid && decide (s.rxData = s.cfg.marker1)

/-- R88: `m2`, 0 when no byte is offered. -/
def State.condM2 (s : State) : Bool := s.rxValid && decide (s.rxData = s.cfg.marker2)

/-- R88: `exp`. -/
def State.condExp (s : State) : Bool := s.expired

/-- R88: `lst`. "`X = N - 1`" is read in the integers, as `X + 1 = N` (log entry 9). -/
def State.condLst (s : State) : Bool :=
  match s.phase with
  | .read => decide (s.rxcnt + 1 = s.cfg.dataLength)
  | .apply => decide (s.px + 1 = s.cfg.width) && decide (s.py + 1 = s.cfg.height)
  | .correct => decide (s.px + 1 = s.cfg.corrN)
  | _ => false

/-- R88: `done`. -/
def State.condDone (s : State) : Bool := s.inp.done

/-- R88: `cz`, a constant of the configuration. -/
def State.condCz (s : State) : Bool := decide (s.cfg.corrN = 0)

/-- R87: the dispatch vector of the current cycle. -/
def State.sel (s : State) : Sel where
  rst := s.inp.rst
  phase := s.phase.code
  v := s.condV
  m1 := s.condM1
  m2 := s.condM2
  exp := s.condExp
  lst := s.condLst
  done := s.condDone
  cz := s.condCz

/-- R89: the operation of the current cycle. -/
def State.op (s : State) : Option Instr := decodeSel s.sel.pack

end Sys2Proof.Machine
end

