-- ==== Sys2Proof/Machine/FrameDecoder.lean ====
section
/-! DEFINITION. The Frame Decoder's operations (R111 to R122), its per-byte view (R95), and the error each operation
raises (R190 to R192). In every operation here what is not assigned is unchanged (R13, R110). -/

namespace Sys2Proof.Machine

/-- R111: nothing changes. -/
def execS1Wait (s : State) : Out :=
  .next s

/-- R112: the byte is taken and discarded; PHASE stays. -/
def execS1Miss (s : State) : Out :=
  s.takeByte fun _ s => .next { s with phase := .seek1 }

/-- R113. -/
def execS1Hit (s : State) : Out :=
  s.takeByte fun _ s => .next { s with phase := .seek2 }

/-- R114: nothing changes. -/
def execS2Wait (s : State) : Out :=
  .next s

/-- R115: the byte is taken and discarded; PHASE stays. -/
def execS2Again (s : State) : Out :=
  s.takeByte fun _ s => .next { s with phase := .seek2 }

/-- R116. -/
def execS2Start (s : State) : Out :=
  s.takeByte fun _ s => .next { s with phase := .read, rxcnt := 0, tmr := 0 }

/-- R117. -/
def execS2Miss (s : State) : Out :=
  s.takeByte fun _ s => .next { s with phase := .seek1 }

/-- R118. -/
def execRpWait (s : State) : Out :=
  .next { s with tmr := s.tmr + 1 }

/-- R119. -/
def execRpStore (s : State) : Out :=
  s.takeByte fun b s =>
    s.writePbuf s.rxcnt b fun s =>
      .next { s with rxcnt := s.rxcnt + 1, tmr := s.tmr + 1 }

/-- R120. -/
def execRpLast (s : State) : Out :=
  s.takeByte fun b s =>
    s.writePbuf (s.cfg.dataLength - 1) b fun s =>
      .next { s with rxcnt := 0, tmr := 0, px := 0, py := 0, phase := .apply }

/-- R121: the truncation trap. -/
def execRpTimeout (s : State) : Out :=
  .next s.truncationTrap

/-- R122: only PHASE changes. -/
def execIllRecover (s : State) : Out :=
  .next { s with phase := .seek1 }

/-- R95: the Frame Decoder as a pure function of its state and a taken byte. -/
def fd (c : Cfg) (q : FdState) (b : Byte) : FdState × FdEffect :=
  match q, c.classify b with
  | .seek1, .m1 => (.seek2, .nothing)
  | .seek1, .m2 => (.seek1, .nothing)
  | .seek1, .other => (.seek1, .nothing)
  | .seek2, .m1 => (.seek2, .nothing)
  | .seek2, .m2 => (.read 0, .startTimer)
  | .seek2, .other => (.seek1, .nothing)
  | .read n, _ =>
    if n + 1 = c.dataLength then (.seek1, .handOver n b) else (.read (n + 1), .store n b)

/-- The per-byte view of a state of the machine: READ carries its counter, and while the Matrix Writer runs the decoder
is on its way back to SEEK1 (R95). -/
def State.fdState (s : State) : FdState :=
  match s.phase with
  | .seek2 => .seek2
  | .read => .read s.rxcnt
  | _ => .seek1

/-- R190, R194: the error an operation raises. No operation raises the configuration error (R193). -/
def errorOf (i : Instr) : Option ErrorCause :=
  match i with
  | .s1Miss => some .resync
  | .s2Miss => some .resync
  | .rpTimeout => some .truncatedPayload
  | _ => none

end Sys2Proof.Machine
end

