-- ==== Sys2Proof/Machine/MatrixWriter.lean ====
section
/-! DEFINITION. The Matrix Writer's operations (R141 to R146). In every operation here what is not assigned is
unchanged, and no byte is taken (R13, R140). -/

namespace Sys2Proof.Machine

/-- R141. -/
def execMwWrpix (s : State) : Out :=
  s.readPbuf3 (3 * s.cfg.pixelNumber s.px s.py) fun p =>
    s.writePix (s.cfg.map s.px s.py) p fun s =>
      .next (if s.px + 1 = s.cfg.width then { s with px := 0, py := s.py + 1 }
        else { s with px := s.px + 1 })

/-- R142. -/
def execMwWrlast (s : State) : Out :=
  s.readPbuf3 (3 * (s.cfg.numPixels - 1)) fun p =>
    s.writePix (s.cfg.map (s.cfg.width - 1) (s.cfg.height - 1)) p fun s =>
      .next { s with px := 0, py := 0, phase := if s.cfg.corrN = 0 then .present else .correct }

/-- R143. -/
def execMwSwap (s : State) : Out :=
  s.readPix (s.cfg.map s.px (s.cfg.height - 1)) fun t =>
    s.writePix (s.cfg.map s.px (s.cfg.height - 1))
      ((corrLut (s.cfg.region s.px (s.cfg.height - 1))).permute t) fun s =>
        .next { s with px := s.px + 1 }

/-- R144. -/
def execMwSwlast (s : State) : Out :=
  s.readPix (s.cfg.map (s.cfg.corrN - 1) (s.cfg.height - 1)) fun t =>
    s.writePix (s.cfg.map (s.cfg.corrN - 1) (s.cfg.height - 1)) ((corrLut true).permute t) fun s =>
      .next { s with px := 0, phase := .present }

/-- R145: nothing changes. -/
def execMwHold (s : State) : Out :=
  .next s

/-- R146. -/
def execMwDone (s : State) : Out :=
  .next { s with phase := .seek1 }

end Sys2Proof.Machine
end

