-- ==== Sys2Proof/Machine/Reset.lean ====
section
/-! DEFINITION. The RESET operation. -/

namespace Sys2Proof.Machine

/-- R220, R221. The registers take their reset values; both memories become unspecified (a new epoch, nothing
written). INQ is not flushed (D2, log entry 7); only a byte offered while the old `rx_ready_o` is 1 leaves it (R51). -/
def execReset (s : State) : Out :=
  .next { s with
    phase := .seek1, rxcnt := 0, tmr := 0, px := 0, py := 0
    pbuf := [], pix := [], epoch := s.epoch + 1, inq := s.inqAfterReady }

end Sys2Proof.Machine
end

