-- ==== Sys2Proof/Machine/Dispatch.lean ====
section
/-! DEFINITION. One arm per operation (R89): each a direct call of its meaning. -/

namespace Sys2Proof.Machine

def exec (i : Instr) (s : State) : Host.Outcome State Fault Refusal :=
  match i with
  | .reset => Sys2Proof.Machine.execReset s
  | .s1Wait => Sys2Proof.Machine.execS1Wait s
  | .s1Miss => Sys2Proof.Machine.execS1Miss s
  | .s1Hit => Sys2Proof.Machine.execS1Hit s
  | .s2Wait => Sys2Proof.Machine.execS2Wait s
  | .s2Again => Sys2Proof.Machine.execS2Again s
  | .s2Start => Sys2Proof.Machine.execS2Start s
  | .s2Miss => Sys2Proof.Machine.execS2Miss s
  | .rpWait => Sys2Proof.Machine.execRpWait s
  | .rpStore => Sys2Proof.Machine.execRpStore s
  | .rpLast => Sys2Proof.Machine.execRpLast s
  | .rpTimeout => Sys2Proof.Machine.execRpTimeout s
  | .illRecover => Sys2Proof.Machine.execIllRecover s
  | .mwWrpix => Sys2Proof.Machine.execMwWrpix s
  | .mwWrlast => Sys2Proof.Machine.execMwWrlast s
  | .mwSwap => Sys2Proof.Machine.execMwSwap s
  | .mwSwlast => Sys2Proof.Machine.execMwSwlast s
  | .mwHold => Sys2Proof.Machine.execMwHold s
  | .mwDone => Sys2Proof.Machine.execMwDone s

end Sys2Proof.Machine
end

