-- ==== Sys2Proof/Machine/Fetch.lean ====
section
/-! DEFINITION. Placing a dispatch vector: NML-CORE fetches nothing from a memory; the operation of a cycle is selected
by PHASE, the counters and the inputs (R4, R87). What is set here is all that makes the next cycle's vector select the
operation of a given word (log entry 10). -/

namespace Sys2Proof

/-- A byte that equals neither marker: one of 0, 1, 2 always does. -/
def Cfg.otherByte (c : Cfg) : Byte :=
  if c.marker1 ≠ 0 ∧ c.marker2 ≠ 0 then 0
  else if c.marker1 ≠ 1 ∧ c.marker2 ≠ 1 then 1
  else 2

/-- The byte to offer for a vector's `m1` and `m2` bits. With both set, which no configuration allows (R90 (a)), the
one the phase's row looks at: `MARKER2` in SEEK2, else `MARKER1`. -/
def Sel.offeredByte (x : Sel) (c : Cfg) : Byte :=
  if x.m2 && (!x.m1 || x.phase == Phase.seek2.code) then c.marker2
  else if x.m1 then c.marker1
  else c.otherByte

/-- The configuration has the operation the vector selects: MW.WRPIX needs two pixels, MW.SWAP a region of two columns,
MW.SWLAST of one. -/
def Sel.fits (x : Sel) (c : Cfg) : Bool :=
  c.valid &&
    match Phase.ofCode x.phase with
    | .apply => x.lst || decide (2 ≤ c.numPixels)
    | .correct => if x.lst then decide (1 ≤ c.corrN) else decide (2 ≤ c.corrN)
    | _ => true

namespace Machine

/-- The counters a vector needs: RXCNT and TMR in READ, PX and PY in APPLY and CORRECT. -/
def State.placeCounters (s : State) (x : Sel) : State :=
  match Phase.ofCode x.phase with
  | .read =>
    let n := if x.lst then s.cfg.dataLength - 1 else 0
    { s with rxcnt := n, tmr := if x.exp then s.cfg.timeoutCycles else n }
  | .apply =>
    { s with
      px := if x.lst then s.cfg.width - 1 else 0
      py := if x.lst then s.cfg.height - 1 else 0 }
  | .correct => { s with px := if x.lst then s.cfg.corrN - 1 else 0, py := 0 }
  | _ => s

/-- The state whose next cycle has (on every bit its row looks at) the dispatch vector `x`. -/
def State.place (s : State) (x : Sel) : State :=
  let s := if x.fits s.cfg then s else { s with cfg := Config.build }
  let s := s.placeCounters x
  { s with
    phase := Phase.ofCode x.phase
    inq := if x.v then x.offeredByte s.cfg :: s.inq.tail else []
    sched := { CycleIn.idle with rst := x.rst, done := x.done } :: s.sched }

end Machine

end Sys2Proof
end

