-- ==== Sys2Proof/Machine/Step.lean ====
section
/-! DEFINITION. One clock cycle: the inputs come to the ports, the dispatch vector selects one operation, and that
operation executes (R4, R13, R89). -/

namespace Sys2Proof.Machine

/-- One clock cycle. A record that is not a configuration is refused (R10); an arrival that overflows INQ ends the run
(R72, U1). -/
def step (s : State) : Host.Outcome State Fault Refusal :=
  if s.cfg.valid then
    if s.willOverflow then .fault .inqOverflow
    else
      match s.beginCycle.op with
      | some i => exec i s.beginCycle
      | none => .refused .noOperation
  else .refused .badConfig

/-- `s` made to execute, in its next cycle, the operation of the dispatch vector in the low 11 bits of `w`. -/
def State.withFetchWord (s : State) (_nbits w : Nat) : State :=
  s.place (Sel.unpack (BitVec.ofNat 11 w))

end Sys2Proof.Machine
end

