-- ==== Sys2Proof/Machine/EventLevel.lean ====
section
/-! DEFINITION. The event-level view of R235: no clock, four kinds of step, the Matrix Writer's work done at once.
PRESENT is kept as a waiting state that the driver's `done` ends (R235, R232). -/

namespace Sys2Proof.Machine

/-- The event-level state (R235). `dec` holds PHASE restricted to SEEK1, SEEK2, READ, and RXCNT. -/
structure EvState where
  dec     : FdState
  pbuf    : Mem Byte
  pix     : Mem Pixel
  inq     : List Byte
  waiting : Bool
  deriving DecidableEq, Repr

/-- The steps of R235, and the driver's `done`. -/
inductive EvAction where
  | arrive (b : Byte)
  | take
  | timeout
  | done
  deriving DecidableEq, Repr

/-- R149 in the one-pass form of R178: every payload pixel through the lookup to its physical index. -/
def frameImage (c : Cfg) (payload : Nat → Byte) (pix : Mem Pixel) : Mem Pixel :=
  (List.range c.numPixels).foldl
    (fun m k =>
      Mem.write m (c.map (c.column k) (c.row k))
        ((corrLut (c.region (c.column k) (c.row k))).permute
          ⟨payload (3 * k), payload (3 * k + 1), payload (3 * k + 2)⟩))
    pix

/-- R148: what is left of `applyCorrection()` from column `x` on: `n` columns. -/
def swapColumns (c : Cfg) (old : Nat → Pixel) (x n : Nat) (pix : Mem Pixel) : Mem Pixel :=
  (List.range n).foldl
    (fun m j =>
      Mem.write m (c.map (x + j) (c.height - 1))
        ((corrLut true).permute (old (c.map (x + j) (c.height - 1)))))
    pix

/-- The byte an event-level PBUF shows at an offset. -/
def EvState.pbufByte (epoch : Nat) (q : EvState) (o : Nat) : Byte :=
  (Mem.read q.pbuf o).getD (Config.freePbufByte epoch o)

/-- The image an event-level PIX shows, by physical index. -/
def EvState.image (c : Cfg) (epoch : Nat) (q : EvState) : List Pixel :=
  (List.range c.numPixels).map fun i => (Mem.read q.pix i).getD (Config.freePixel epoch i)

/-- R235 (b): a byte is taken. When `fd` completes a payload, the whole of APPLY and CORRECT happens at once and the
image is presented. -/
def EvState.takeByte (c : Cfg) (epoch : Nat) (q : EvState) (b : Byte) (rest : List Byte) :
    EvState × List Event :=
  match fd c q.dec b with
  | (p, .nothing) => ({ q with dec := p, inq := rest }, [])
  | (p, .startTimer) => ({ q with dec := p, inq := rest }, [])
  | (p, .store o b) => ({ q with dec := p, inq := rest, pbuf := Mem.write q.pbuf o b }, [])
  | (p, .handOver o b) =>
    let q := { q with dec := p, inq := rest, pbuf := Mem.write q.pbuf o b, waiting := true }
    let q := { q with pix := frameImage c (q.pbufByte epoch) q.pix }
    (q, [.present (q.image c epoch)])

/-- One event-level step: `none` where the action is not enabled (R235). -/
def evStep (c : Cfg) (epoch : Nat) (a : EvAction) (q : EvState) : Option (EvState × List Event) :=
  match a with
  | .arrive b => some ({ q with inq := q.inq ++ [b] }, [])
  | .take =>
    if q.waiting then none
    else
      match q.inq with
      | [] => none
      | b :: rest => some (q.takeByte c epoch b rest)
  | .timeout =>
    match q.dec with
    | .read _ => some ({ q with dec := .seek1, inq := [] }, [.truncatedPayload])
    | _ => none
  | .done => if q.waiting then some ({ q with waiting := false }, []) else none

/-- A sequence of event-level steps, with the events they emit. -/
def evRun (c : Cfg) (epoch : Nat) : List EvAction → EvState → Option (EvState × List Event)
  | [], q => some (q, [])
  | a :: rest, q =>
    match evStep c epoch a q with
    | none => none
    | some (q', es) =>
      match evRun c epoch rest q' with
      | none => none
      | some (q'', es') => some (q'', es ++ es')

/-- The event-level state a cycle-level state stands for: during APPLY and CORRECT the work still to do is already
done. -/
def State.abstract (s : State) : EvState where
  dec := s.fdState
  pbuf := s.pbuf
  pix :=
    match s.phase with
    | .apply => frameImage s.cfg s.pbufByte s.pix
    | .correct => swapColumns s.cfg s.pixel s.px (s.cfg.corrN - s.px) s.pix
    | _ => s.pix
  inq := s.inq
  waiting :=
    match s.phase with
    | .apply => true
    | .correct => true
    | .present => true
    | _ => false

end Sys2Proof.Machine
end

