-- ==== Sys2Proof/Machine/Script.lean ====
section
/-! DEFINITION. The stream script of R93 and R94: a notation for a byte sequence with arrival times, and the schedule of
port inputs it denotes. NML-CORE has no assembler; its "program" is the input byte stream (R4). -/

namespace Sys2Proof

/-- R57: the wire bytes of a triple. -/
def Pixel.wire (p : Pixel) : List Byte := [p.r, p.g, p.b]

/-- R58: the wire bytes of a payload given as pixels. -/
def payloadBytes (ps : List Pixel) : List Byte := ps.flatMap Pixel.wire

namespace Machine

/-- One item of a stream script (R93), or one of the pseudo-items of R94. -/
inductive Item where
  /-- two hex digits: one byte -/
  | byte (b : Byte)
  /-- `M1`: the byte `MARKER1` -/
  | m1
  /-- `M2`: the byte `MARKER2` -/
  | m2
  /-- `RRGGBB`: three bytes R, G, B -/
  | pixel (p : Pixel)
  /-- `@t:` the bytes that follow arrive at the start of cycle `t` -/
  | atCycle (t : Nat)
  /-- `GAP(n)`: no byte arrives for the next `n` cycles -/
  | gap (n : Nat)
  /-- `FRAME(p0 ... )`: a conformant frame -/
  | frame (ps : List Pixel)
  /-- `FILL(RRGGBB)`: a frame with every pixel the same -/
  | fill (p : Pixel)
  /-- `TRUNC(j; p...)`: the markers and only the first `j` payload bytes -/
  | trunc (j : Nat) (ps : List Pixel)
  /-- `JUNK(b...)`: bytes none of which is `MARKER1` -/
  | junk (bs : List Byte)
  deriving DecidableEq, Repr

/-- The bytes an item stands for (R93, R94). -/
def Item.bytes (c : Cfg) : Item → List Byte
  | .byte b => [b]
  | .m1 => [c.marker1]
  | .m2 => [c.marker2]
  | .pixel p => p.wire
  | .atCycle _ => []
  | .gap _ => []
  | .frame ps => c.frame (payloadBytes ps)
  | .fill p => c.frame (payloadBytes (List.replicate c.numPixels p))
  | .trunc j ps => c.frame ((payloadBytes ps).take j)
  | .junk bs => bs

/-- R94's side conditions: a frame has `NUM_PIXELS` pixels, a truncated one stops short of `DATA_LENGTH` bytes, junk
holds no `MARKER1`. -/
def Item.wellFormed (c : Cfg) : Item → Bool
  | .frame ps => ps.length == c.numPixels
  | .trunc j ps => decide (j < c.dataLength) && ps.length == c.numPixels
  | .junk bs => bs.all fun b => b != c.marker1
  | _ => true

/-- The cycle at which an item leaves the script's clock (R93; the gap's count starts after the current cycle, log
entry 11). -/
def Item.clock (t : Nat) : Item → Nat
  | .atCycle u => u
  | .gap n => t + n + 1
  | _ => t

/-- The arrivals a script denotes, from cycle `t` on. -/
def scriptArrivals (c : Cfg) : Nat → List Item → List (Nat × Byte)
  | _, [] => []
  | t, i :: rest => (i.bytes c).map (fun b => (t, b)) ++ scriptArrivals c (i.clock t) rest

/-- The port inputs of `n` cycles from cycle 0 on: the script's arrivals (dropped by a flush in their own cycle), no
reset, and `pres_done_i` as `done` says. -/
def scriptSchedule (c : Cfg) (items : List Item) (n : Nat) (done : Nat → Bool) : List CycleIn :=
  (List.range n).map fun t =>
    { CycleIn.idle with
      arrivals := ((scriptArrivals c 0 items).filter fun e => e.1 == t).map fun e => ⟨e.2, false⟩
      done := done t }

end Machine

end Sys2Proof
end

