-- ==== Sys2Proof/Safety.lean ====
section
/-! DEFINITION. The invariant of R32 with what it says of the two memories, runs of several cycles, and what a run shows
the outside world. -/

namespace Sys2Proof.Machine

/-- The invariant of R32, (a) to (f), over a valid configuration; with it the canonical form of both memories, that
nothing outside their address ranges is listed (R54, R55), and what PIX holds while the Matrix Writer runs and while
the image is presented (R147, R148, R149, R152). -/
structure Inv (s : State) : Prop where
  config     : s.cfg.valid = true
  legal      : s.phase.legal = true
  rxcntRange : s.rxcnt < s.cfg.dataLength
  rxcntIdle  : s.phase ≠ .read → s.rxcnt = 0
  tmrRange   : s.tmr ≤ s.cfg.timeoutCycles
  tmrIdle    : s.phase ≠ .read → s.tmr = 0
  readBound  : s.phase = .read → s.rxcnt ≤ s.tmr
  pxRange    : s.px < s.cfg.width
  pyRange    : s.py < s.cfg.height
  pxyIdle    : s.phase ≠ .apply → s.phase ≠ .correct → s.px = 0 ∧ s.py = 0
  correctPx  : s.phase = .correct → s.py = 0 ∧ 1 ≤ s.cfg.corrN ∧ s.px < s.cfg.corrN
  pbufForm   : Mem.wf s.pbuf = true
  pixForm    : Mem.wf s.pix = true
  pbufBelow  : Mem.below s.pbuf s.cfg.dataLength = true
  pixBelow   : Mem.below s.pix s.cfg.numPixels = true
  received   : s.phase = .read → ∀ o, o < s.rxcnt → Mem.read s.pbuf o ≠ none
  complete   : s.phase = .apply ∨ s.phase = .correct ∨ s.phase = .present →
    ∀ o, o < s.cfg.dataLength → Mem.read s.pbuf o ≠ none
  applied    : s.phase = .apply → ∀ x y, x < s.cfg.width → y < s.cfg.height →
    s.cfg.pixelNumber x y < s.cfg.pixelNumber s.px s.py →
    Mem.read s.pix (s.cfg.map x y) = some (s.payloadTriple x y)
  corrected  : s.phase = .correct → ∀ x y, x < s.cfg.width → y < s.cfg.height →
    Mem.read s.pix (s.cfg.map x y) =
      some ((corrLut (decide (y + 1 = s.cfg.height ∧ x < s.px))).permute (s.payloadTriple x y))
  presented  : s.phase = .present → ∀ x y, x < s.cfg.width → y < s.cfg.height →
    Mem.read s.pix (s.cfg.map x y) =
      some ((corrLut (s.cfg.region x y)).permute (s.payloadTriple x y))

/-- `n` clock cycles, ending at the first stop. -/
def run : Nat → State → Host.Outcome State Fault Refusal
  | 0, s => .next s
  | n + 1, s =>
    match step s with
    | .next t => run n t
    | .fault f => .fault f
    | .refused r => .refused r

/-- The bytes that arrive in the next `n` cycles, in order. -/
def State.arriving (s : State) (n : Nat) : List Byte :=
  (s.sched.take n).flatMap fun c => c.arrivals.map fun a => a.byte

/-- `rst_i` stays 0 in the next `n` cycles. -/
def State.noReset (s : State) (n : Nat) : Prop :=
  ∀ c ∈ s.sched.take n, c.rst = false

/-- No byte arrives in the next `n` cycles. -/
def State.silent (s : State) (n : Nat) : Prop :=
  ∀ c ∈ s.sched.take n, c.arrivals = []

/-- What a cycle that takes `s` (inputs at the ports) to `t` shows: the error pulse (R192), and, when PRESENT is
entered, the presented image (R152). -/
def cycleEvents (s t : State) : List Event :=
  (if s.outputs.errTrunc then [.truncatedPayload] else []) ++
    (if s.phase ≠ .present ∧ t.phase = .present then [.present t.image] else [])

/-- What `n` cycles show (R236). -/
def events : Nat → State → List Event
  | 0, _ => []
  | n + 1, s =>
    match step s with
    | .next t => cycleEvents s.beginCycle t ++ events n t
    | _ => []

end Sys2Proof.Machine
end

