-- ==== Sys2Proof/Certificates/Slice0/Obligations.lean ====
section
/-! DEFINITION. The statements for the provers. A state `s` of which a statement says what operation `s.op` is stands
with its cycle's inputs at the ports (`State.beginCycle` has brought them there); `step` does that first. -/

open Sys2Proof Sys2Proof.Machine

/-! ## Encoding and dispatch -/

/-- R89: the table of match and mask, that the 19 rows partition all vectors, that an operation executes exactly when
its row matches, and the column "next PHASE". -/
def Obligations.OperationMapPartitionsAllVectors : Prop :=
  (Instr.all.map fun i => (i.mnemonic, i.matchBits, i.maskBits)) =
      [("RESET", 0x400#11, 0x400#11), ("S1.WAIT", 0x000#11, 0x7C0#11), ("S1.MISS", 0x040#11, 0x7E0#11),
        ("S1.HIT", 0x060#11, 0x7E0#11), ("S2.WAIT", 0x080#11, 0x7C0#11), ("S2.AGAIN", 0x0E0#11, 0x7F0#11),
        ("S2.START", 0x0D0#11, 0x7D0#11), ("S2.MISS", 0x0C0#11, 0x7F0#11)] ++
      [("RP.WAIT", 0x100#11, 0x7C8#11), ("RP.STORE", 0x140#11, 0x7CC#11), ("RP.LAST", 0x144#11, 0x7CC#11),
        ("RP.TIMEOUT", 0x108#11, 0x788#11), ("ILL.RECOVER", 0x300#11, 0x700#11)] ++
      [("MW.WRPIX", 0x180#11, 0x784#11), ("MW.WRLAST", 0x184#11, 0x784#11), ("MW.SWAP", 0x200#11, 0x784#11),
        ("MW.SWLAST", 0x204#11, 0x784#11), ("MW.HOLD", 0x280#11, 0x782#11), ("MW.DONE", 0x282#11, 0x782#11)] ∧
    (∀ w : BitVec 11, ∃ i : Instr, w &&& i.maskBits = i.matchBits ∧
      ∀ j : Instr, w &&& j.maskBits = j.matchBits → j = i) ∧
    (∀ (s : State) (i : Instr), s.op = some i ↔ s.sel.pack &&& i.maskBits = i.matchBits) ∧
    (∀ (s t : State) (i : Instr), s.op = some i → exec i s = .next t →
      t.phase =
        match i with
        | .reset => .seek1
        | .s1Wait => .seek1
        | .s1Miss => .seek1
        | .s1Hit => .seek2
        | .s2Wait => .seek2
        | .s2Again => .seek2
        | .s2Start => .read
        | .s2Miss => .seek1
        | .rpWait => .read
        | .rpStore => .read
        | .rpLast => .apply
        | .rpTimeout => .seek1
        | .illRecover => .seek1
        | .mwWrpix => .apply
        | .mwWrlast => if s.condCz then .present else .correct
        | .mwSwap => .correct
        | .mwSwlast => .present
        | .mwHold => .present
        | .mwDone => .seek1)

/-- R87, R89: decoding any vector of an operation, whatever its ignored bits, gives the operation back; every vector that
decodes to it is one of those; as a table word it decodes the same, and a number with a bit above bit 10 is refused. -/
def Obligations.DecodeInvertsEncode : Prop :=
  (∀ (i : Instr) (x : BitVec 11), decodeSel (encodeWith i x) = some i) ∧
    (∀ (i : Instr) (w : BitVec 11), decodeSel w = some i → ∃ x, encodeWith i x = w) ∧
    (∀ (i : Instr) (x : BitVec 11) (nbits : Nat), 11 ≤ nbits →
      decodeTableWord nbits (encodeWith i x).toNat = some i) ∧
    (∀ nbits w : Nat, 2 ^ 11 ≤ w → decodeTableWord nbits w = none)

/-- Vectors written out in the spec's examples (V1 to V29) decode to the operations the spec names there. -/
def Obligations.ExampleVectorsDecode : Prop :=
  decodeTableWord 16 0x541 = some .reset ∧ decodeTableWord 16 0x001 = some .s1Wait ∧
    decodeTableWord 16 0x051 = some .s1Miss ∧ decodeTableWord 16 0x061 = some .s1Hit ∧
    decodeTableWord 16 0x0E1 = some .s2Again ∧ decodeTableWord 16 0x0C1 = some .s2Miss ∧
    decodeTableWord 16 0x161 = some .rpStore ∧ decodeTableWord 16 0x14D = some .rpTimeout ∧
    decodeTableWord 16 0x301 = some .illRecover ∧ decodeTableWord 16 0x185 = some .mwWrlast ∧
    decodeTableWord 16 0x204 = some .mwSwlast ∧ decodeTableWord 16 0x2E0 = some .mwHold

/-- R87, R88: each bit of the dispatch vector; and flipping `m1` or `m2` without an offered byte, `exp` outside READ, or
`lst` outside READ, APPLY and CORRECT never changes the operation (for every other ignored bit see
`DecodeInvertsEncode`). That the comparisons of `lst` are those of the integers is the model's reading (log entry 9,
DEDUCED): it decides CORRECT with `CORR_N = 0`. -/
def Obligations.DispatchVectorBits : Prop :=
  (∀ w : BitVec 11,
    (w &&& 0x040#11 = 0 → decodeSel (w ^^^ 0x020#11) = decodeSel w ∧
      decodeSel (w ^^^ 0x010#11) = decodeSel w) ∧
    (w &&& 0x380#11 ≠ 0x100#11 → decodeSel (w ^^^ 0x008#11) = decodeSel w) ∧
    (w &&& 0x380#11 ≠ 0x100#11 → w &&& 0x380#11 ≠ 0x180#11 → w &&& 0x380#11 ≠ 0x200#11 →
      decodeSel (w ^^^ 0x004#11) = decodeSel w)) ∧
  ∀ s : State,
    (s.sel.pack.getLsbD 10 = s.inp.rst) ∧
    (s.sel.pack.extractLsb' 7 3 = s.phase.code) ∧
    (s.sel.pack.getLsbD 6 = true ↔ s.inq ≠ []) ∧
    (∀ b rest, s.inq = b :: rest →
      (s.sel.pack.getLsbD 5 = true ↔ b = s.cfg.marker1) ∧
      (s.sel.pack.getLsbD 4 = true ↔ b = s.cfg.marker2)) ∧
    (s.sel.pack.getLsbD 3 = true ↔ s.phase = .read ∧ s.tmr = s.cfg.timeoutCycles) ∧
    (s.phase = .read →
      (s.sel.pack.getLsbD 2 = true ↔ (s.rxcnt : Int) = (s.cfg.dataLength : Int) - 1)) ∧
    (s.phase = .apply →
      (s.sel.pack.getLsbD 2 = true ↔
        (s.px : Int) = (s.cfg.width : Int) - 1 ∧ (s.py : Int) = (s.cfg.height : Int) - 1)) ∧
    (s.phase = .correct →
      (s.sel.pack.getLsbD 2 = true ↔ (s.px : Int) = (s.cfg.corrN : Int) - 1)) ∧
    (s.phase ≠ .read → s.phase ≠ .apply → s.phase ≠ .correct → s.sel.pack.getLsbD 2 = false) ∧
    (s.sel.pack.getLsbD 1 = s.inp.done) ∧
    (s.sel.pack.getLsbD 0 = true ↔ s.cfg.corrN = 0)

/-- R90 (a): with a valid configuration every cycle's vector is one that can occur; in particular never both marker
bits. The zero marker bits without an offered byte are the model's choice (log entry 8). -/
def Obligations.DispatchVectorsWellFormed : Prop :=
  ∀ s : State, s.cfg.valid = true → s.sel.wellFormed = true

/-- R83, R84, R85: the codes of PHASE, of the addressing schemes, of the channel selectors and of the two entries of
the correction table. -/
def Obligations.FieldCodes : Prop :=
  Phase.code .seek1 = 0 ∧ Phase.code .seek2 = 1 ∧ Phase.code .read = 2 ∧ Phase.code .apply = 3 ∧
    Phase.code .correct = 4 ∧ Phase.code .present = 5 ∧
    (∀ c : BitVec 3, (Phase.ofCode c).code = c ∧
      ((Phase.ofCode c).legal = false ↔ c = 6 ∨ c = 7)) ∧
    AddrScheme.code .linear = some 0 ∧ AddrScheme.code .serpentine = some 1 ∧
    (∀ e : LutEntry, Channel.ofCode (e.code.extractLsb' 4 2) = some e.selR ∧
      Channel.ofCode (e.code.extractLsb' 2 2) = some e.selG ∧
      Channel.ofCode (e.code.extractLsb' 0 2) = some e.selB) ∧
    Channel.ofCode 0 = some .red ∧ Channel.ofCode 1 = some .green ∧ Channel.ofCode 2 = some .blue ∧
    Channel.ofCode 3 = none ∧
    (corrLut false).code = 0x06#6 ∧ (corrLut true).code = 0x12#6

/-! ## The step -/

/-- R4, R13, R89: one cycle executes exactly the operation its dispatch vector selects; there always is one. The last
clause, what the cycle's start brings, is the model's choice: inputs from a schedule that is idle when used up, arrivals
taken into INQ at the start of the cycle (log entry 5), and the model's own cycle counter (log entry 4). -/
def Obligations.StepExecutesSelectedOperation : Prop :=
  ∀ s : State, s.cfg.valid = true → s.willOverflow = false →
    ∃ i : Instr, decodeSel s.beginCycle.sel.pack = some i ∧ step s = exec i s.beginCycle ∧
      s.beginCycle =
        { s with
          inp := s.sched.headD CycleIn.idle
          sched := s.sched.tail
          inq := s.inq ++ (s.sched.headD CycleIn.idle).arrivals.map fun a => a.byte
          cycle := s.cycle + 1 }

/-- R10: a record that breaks one of the constraints is refused. -/
def Obligations.InvalidConfigurationRefused : Prop :=
  ∀ s : State,
    ¬ (1 ≤ s.cfg.width ∧ 1 ≤ s.cfg.height ∧ s.cfg.marker1 ≠ s.cfg.marker2 ∧
      s.cfg.corrN ≤ s.cfg.width ∧ s.cfg.dataLength ≤ s.cfg.timeoutCycles) →
    step s = .refused .badConfig

/-- R72: the run ends, under a name of its own, exactly in the cycle whose arrivals do not fit into INQ. -/
def Obligations.InputOverflowEndsRun : Prop :=
  ∀ s : State, s.cfg.valid = true →
    ((∃ d, s.inqDepth = some d ∧ (s.sched.headD CycleIn.idle).arrivals ≠ [] ∧
      d < s.inq.length + (s.sched.headD CycleIn.idle).arrivals.length) ↔ step s = .fault .inqOverflow)

/-- The model's placing of a dispatch vector (log entry 10): the next cycle selects and executes the operation the
vector decodes to. -/
def Obligations.PlacedVectorIsExecuted : Prop :=
  ∀ (s : State) (nbits w : Nat) (i : Instr), decodeTableWord nbits w = some i →
    (s.withFetchWord nbits w).beginCycle.op = some i ∧
      step (s.withFetchWord nbits w) = exec i (s.withFetchWord nbits w).beginCycle

/-! ## The operations -/

/-- R220: RESET is selected by `rst_i` alone, sets PHASE and the four counters, pulses nothing and leaves INQ alone but
for the byte that is offered while the old `rx_ready_o` is 1. Everything but the two memories (R221) is stated. -/
def Obligations.ResetOperation : Prop :=
  ∀ s : State, s.inp.rst = true →
    s.op = some .reset ∧ s.outputs.rxFlush = false ∧ s.outputs.errTrunc = false ∧
      ∃ t : State, exec .reset s = .next t ∧
        t.phase = .seek1 ∧ t.rxcnt = 0 ∧ t.tmr = 0 ∧ t.px = 0 ∧ t.py = 0 ∧
        t.cfg = s.cfg ∧ t.inp = s.inp ∧ t.sched = s.sched ∧ t.inqDepth = s.inqDepth ∧ t.cycle = s.cycle ∧
        (s.outputs.rxReady = true → t.inq = s.inq.tail) ∧
        (s.outputs.rxReady = false → t.inq = s.inq)

/-- R220, R231, D2 in the RESET cycle of an expired READ timer: the frame is abandoned with no error pulse and no flush,
and INQ is untouched. The model's reading where a sentence of R31 says otherwise (log entry 7). -/
def Obligations.ResetWithExpiredTimer : Prop :=
  ∀ s : State, s.inp.rst = true → s.phase = .read → s.tmr = s.cfg.timeoutCycles →
    s.outputs.rxFlush = false ∧ s.outputs.errTrunc = false ∧ s.outputs.rxReady = false ∧
      ∃ t : State, exec .reset s = .next t ∧ t.phase = .seek1 ∧ t.inq = s.inq

/-- R34: what a RESET leaves, and the outputs of the first cycle after it; `State.reset` is such a state. That every cell
of the two memories reads as a free value of the reset epoch is how the model says "unspecified" (log entry 3, DESIGN
CHOICE). -/
def Obligations.StateAfterReset : Prop :=
  ∀ t : State, t = State.reset ∨ (∃ s : State, exec .reset s = .next t) →
    t.phase = .seek1 ∧ t.rxcnt = 0 ∧ t.tmr = 0 ∧ t.px = 0 ∧ t.py = 0 ∧
      t.outputs.rxReady = true ∧ t.outputs.rxFlush = false ∧ t.outputs.errTrunc = false ∧
      t.outputs.presReq = false ∧
      ∀ o, t.pbufByte o = Config.freePbufByte t.epoch o ∧ t.pixel o = Config.freePixel t.epoch o

/-- R111, R112, R113: in SEEK1, which operation is selected, the outputs, the whole next state, and the error. -/
def Obligations.Seek1Operations : Prop :=
  ∀ s : State, s.inp.rst = false → s.phase = .seek1 →
    (s.outputs.rxReady = true ∧ s.outputs.rxFlush = false ∧ s.outputs.errTrunc = false ∧
      s.outputs.presReq = false) ∧
    (s.inq = [] → s.op = some .s1Wait ∧ exec .s1Wait s = .next s) ∧
    (∀ b rest, s.inq = b :: rest → b ≠ s.cfg.marker1 →
      s.op = some .s1Miss ∧ exec .s1Miss s = .next { s with inq := rest }) ∧
    (∀ rest, s.inq = s.cfg.marker1 :: rest →
      s.op = some .s1Hit ∧ exec .s1Hit s = .next { s with inq := rest, phase := .seek2 }) ∧
    errorOf .s1Wait = none ∧ errorOf .s1Miss = some .resync ∧ errorOf .s1Hit = none

/-- R114, R115, R116, R117: the same in SEEK2. -/
def Obligations.Seek2Operations : Prop :=
  ∀ s : State, s.cfg.valid = true → s.inp.rst = false → s.phase = .seek2 →
    (s.outputs.rxReady = true ∧ s.outputs.rxFlush = false ∧ s.outputs.errTrunc = false ∧
      s.outputs.presReq = false) ∧
    (s.inq = [] → s.op = some .s2Wait ∧ exec .s2Wait s = .next s) ∧
    (∀ rest, s.inq = s.cfg.marker1 :: rest →
      s.op = some .s2Again ∧ exec .s2Again s = .next { s with inq := rest }) ∧
    (∀ rest, s.inq = s.cfg.marker2 :: rest →
      s.op = some .s2Start ∧
        exec .s2Start s = .next { s with inq := rest, phase := .read, rxcnt := 0, tmr := 0 }) ∧
    (∀ b rest, s.inq = b :: rest → b ≠ s.cfg.marker1 → b ≠ s.cfg.marker2 →
      s.op = some .s2Miss ∧ exec .s2Miss s = .next { s with inq := rest, phase := .seek1 }) ∧
    errorOf .s2Wait = none ∧ errorOf .s2Again = none ∧ errorOf .s2Start = none ∧
    errorOf .s2Miss = some .resync

/-- R118. -/
def Obligations.ReadWaitOperation : Prop :=
  ∀ s : State, s.inp.rst = false → s.phase = .read → s.tmr ≠ s.cfg.timeoutCycles → s.inq = [] →
    s.op = some .rpWait ∧ errorOf .rpWait = none ∧
      (s.outputs.rxReady = true ∧ s.outputs.rxFlush = false ∧ s.outputs.errTrunc = false ∧
        s.outputs.presReq = false) ∧
      exec .rpWait s = .next { s with tmr := s.tmr + 1 }

/-- R119: RXCNT in its legal range (R22, R32 (b)). The byte, whatever its value, is stored at offset RXCNT and nowhere
else. -/
def Obligations.ReadStoreOperation : Prop :=
  ∀ (s : State) (b : Byte) (rest : List Byte), s.inp.rst = false → s.phase = .read →
    s.tmr ≠ s.cfg.timeoutCycles → s.inq = b :: rest → s.rxcnt < s.cfg.dataLength →
    s.rxcnt + 1 ≠ s.cfg.dataLength →
    s.op = some .rpStore ∧ errorOf .rpStore = none ∧
      (s.outputs.rxReady = true ∧ s.outputs.rxFlush = false ∧ s.outputs.errTrunc = false ∧
        s.outputs.presReq = false) ∧
      ∃ t : State, exec .rpStore s = .next t ∧
        t = { s with inq := rest, rxcnt := s.rxcnt + 1, tmr := s.tmr + 1, pbuf := t.pbuf } ∧
        Mem.read t.pbuf s.rxcnt = some b ∧
        (∀ o, o ≠ s.rxcnt → Mem.read t.pbuf o = Mem.read s.pbuf o)

/-- R120. -/
def Obligations.ReadLastOperation : Prop :=
  ∀ (s : State) (b : Byte) (rest : List Byte), s.inp.rst = false → s.phase = .read →
    s.tmr ≠ s.cfg.timeoutCycles → s.inq = b :: rest → s.rxcnt + 1 = s.cfg.dataLength →
    s.op = some .rpLast ∧ errorOf .rpLast = none ∧
      (s.outputs.rxReady = true ∧ s.outputs.rxFlush = false ∧ s.outputs.errTrunc = false ∧
        s.outputs.presReq = false) ∧
      ∃ t : State, exec .rpLast s = .next t ∧
        t = { s with
              inq := rest, rxcnt := 0, tmr := 0, px := 0, py := 0, phase := .apply, pbuf := t.pbuf } ∧
        Mem.read t.pbuf (s.cfg.dataLength - 1) = some b ∧
        (∀ o, o ≠ s.cfg.dataLength - 1 → Mem.read t.pbuf o = Mem.read s.pbuf o)

/-- R121, R53: the truncation trap, whatever is offered, even what would have been the last byte; of INQ only bytes that
arrived in this very cycle can remain, those the environment keeps. -/
def Obligations.ReadTimeoutOperation : Prop :=
  ∀ s : State, s.inp.rst = false → s.phase = .read → s.tmr = s.cfg.timeoutCycles →
    s.op = some .rpTimeout ∧ errorOf .rpTimeout = some .truncatedPayload ∧
      (s.outputs.rxReady = false ∧ s.outputs.rxFlush = true ∧ s.outputs.errTrunc = true ∧
        s.outputs.presReq = false) ∧
      exec .rpTimeout s =
        .next { s with
          rxcnt := 0, tmr := 0, phase := .seek1
          inq := (s.inp.arrivals.filter fun a => a.keep).map fun a => a.byte }

/-- R122. That RXCNT, TMR, PX and PY keep what they held is the model's choice where R122 also lets a device clear them
(log entry 16). -/
def Obligations.IllegalPhaseRecovers : Prop :=
  ∀ s : State, s.inp.rst = false → s.phase = .code6 ∨ s.phase = .code7 →
    s.op = some .illRecover ∧ errorOf .illRecover = none ∧
      (s.outputs.rxReady = false ∧ s.outputs.rxFlush = false ∧ s.outputs.errTrunc = false ∧
        s.outputs.presReq = false) ∧
      exec .illRecover s = .next { s with phase := .seek1 }

/-- R141: PX and PY in their legal ranges (R24, R32 (d)). One triple of PIX is replaced, at `MAP(PX, PY)`; every other
index, and all of PBUF, reads as before. -/
def Obligations.WritePixelOperation : Prop :=
  ∀ s : State, s.cfg.valid = true → s.inp.rst = false → s.phase = .apply →
    s.px < s.cfg.width → s.py < s.cfg.height →
    ¬ (s.px + 1 = s.cfg.width ∧ s.py + 1 = s.cfg.height) →
    s.op = some .mwWrpix ∧ errorOf .mwWrpix = none ∧
      (s.outputs.rxReady = false ∧ s.outputs.rxFlush = false ∧ s.outputs.errTrunc = false ∧
        s.outputs.presReq = false) ∧
      ∃ t : State, exec .mwWrpix s = .next t ∧
        t = { s with
              px := if s.px + 1 = s.cfg.width then 0 else s.px + 1
              py := if s.px + 1 = s.cfg.width then s.py + 1 else s.py
              pix := t.pix } ∧
        Mem.read t.pix (s.cfg.map s.px s.py) =
          some ⟨s.pbufByte (3 * (s.py * s.cfg.width + s.px)),
            s.pbufByte (3 * (s.py * s.cfg.width + s.px) + 1),
            s.pbufByte (3 * (s.py * s.cfg.width + s.px) + 2)⟩ ∧
        (∀ i, i ≠ s.cfg.map s.px s.py → Mem.read t.pix i = Mem.read s.pix i)

/-- R142. -/
def Obligations.WriteLastPixelOperation : Prop :=
  ∀ s : State, s.cfg.valid = true → s.inp.rst = false → s.phase = .apply →
    s.px + 1 = s.cfg.width → s.py + 1 = s.cfg.height →
    s.op = some .mwWrlast ∧ errorOf .mwWrlast = none ∧
      (s.outputs.rxReady = false ∧ s.outputs.rxFlush = false ∧ s.outputs.errTrunc = false ∧
        s.outputs.presReq = false) ∧
      ∃ t : State, exec .mwWrlast s = .next t ∧
        t = { s with
              px := 0, py := 0, pix := t.pix
              phase := if s.cfg.corrN = 0 then .present else .correct } ∧
        Mem.read t.pix (s.cfg.map (s.cfg.width - 1) (s.cfg.height - 1)) =
          some ⟨s.pbufByte (s.cfg.dataLength - 3), s.pbufByte (s.cfg.dataLength - 2),
            s.pbufByte (s.cfg.dataLength - 1)⟩ ∧
        (∀ i, i ≠ s.cfg.map (s.cfg.width - 1) (s.cfg.height - 1) →
          Mem.read t.pix i = Mem.read s.pix i)

/-- R143: PX in its range in CORRECT (R32 (d)). R and G of one triple are exchanged, B is kept. -/
def Obligations.SwapOperation : Prop :=
  ∀ s : State, s.cfg.valid = true → s.inp.rst = false → s.phase = .correct →
    s.px < s.cfg.corrN → s.px + 1 ≠ s.cfg.corrN →
    s.op = some .mwSwap ∧ errorOf .mwSwap = none ∧
      (s.outputs.rxReady = false ∧ s.outputs.rxFlush = false ∧ s.outputs.errTrunc = false ∧
        s.outputs.presReq = false) ∧
      ∃ t : State, exec .mwSwap s = .next t ∧
        t = { s with px := s.px + 1, pix := t.pix } ∧
        Mem.read t.pix (s.cfg.map s.px (s.cfg.height - 1)) =
          some ⟨(s.pixel (s.cfg.map s.px (s.cfg.height - 1))).g,
            (s.pixel (s.cfg.map s.px (s.cfg.height - 1))).r,
            (s.pixel (s.cfg.map s.px (s.cfg.height - 1))).b⟩ ∧
        (∀ i, i ≠ s.cfg.map s.px (s.cfg.height - 1) → Mem.read t.pix i = Mem.read s.pix i)

/-- R144. -/
def Obligations.SwapLastOperation : Prop :=
  ∀ s : State, s.cfg.valid = true → s.inp.rst = false → s.phase = .correct →
    s.px + 1 = s.cfg.corrN →
    s.op = some .mwSwlast ∧ errorOf .mwSwlast = none ∧
      (s.outputs.rxReady = false ∧ s.outputs.rxFlush = false ∧ s.outputs.errTrunc = false ∧
        s.outputs.presReq = false) ∧
      ∃ t : State, exec .mwSwlast s = .next t ∧
        t = { s with px := 0, phase := .present, pix := t.pix } ∧
        Mem.read t.pix (s.cfg.map (s.cfg.corrN - 1) (s.cfg.height - 1)) =
          some ⟨(s.pixel (s.cfg.map (s.cfg.corrN - 1) (s.cfg.height - 1))).g,
            (s.pixel (s.cfg.map (s.cfg.corrN - 1) (s.cfg.height - 1))).r,
            (s.pixel (s.cfg.map (s.cfg.corrN - 1) (s.cfg.height - 1))).b⟩ ∧
        (∀ i, i ≠ s.cfg.map (s.cfg.corrN - 1) (s.cfg.height - 1) →
          Mem.read t.pix i = Mem.read s.pix i)

/-- R145, R146: in PRESENT the machine waits for the display driver, whatever is offered at the stream-in port. -/
def Obligations.PresentOperations : Prop :=
  ∀ s : State, s.inp.rst = false → s.phase = .present →
    (s.outputs.rxReady = false ∧ s.outputs.rxFlush = false ∧ s.outputs.errTrunc = false ∧
      s.outputs.presReq = true) ∧
    (s.inp.done = false → s.op = some .mwHold ∧ exec .mwHold s = .next s) ∧
    (s.inp.done = true → s.op = some .mwDone ∧ exec .mwDone s = .next { s with phase := .seek1 }) ∧
    errorOf .mwHold = none ∧ errorOf .mwDone = none

/-! ## Ports, errors, priorities -/

/-- R31: the outputs as functions of the registers, and that none depends on the byte offered or on `pres_done_i`. The
address is what a port of R30's width carries (log entry 19); that `rst_i` holds the two pulses at 0 is the model's
reading of R220, R231 and D2 (log entry 7), and no output depends on it otherwise. -/
def Obligations.OutputFunctions : Prop :=
  ∀ s : State,
    (s.outputs.rxReady = true ↔
      s.phase = .seek1 ∨ s.phase = .seek2 ∨ (s.phase = .read ∧ s.tmr ≠ s.cfg.timeoutCycles)) ∧
    (s.outputs.rxFlush = true ↔ s.phase = .read ∧ s.tmr = s.cfg.timeoutCycles ∧ s.inp.rst = false) ∧
    (s.outputs.errTrunc = true ↔ s.phase = .read ∧ s.tmr = s.cfg.timeoutCycles ∧ s.inp.rst = false) ∧
    (s.outputs.presReq = true ↔ s.phase = .present) ∧
    (∀ a : Nat, a = s.inp.dispAddr % 2 ^ max 1 (bitlen (s.cfg.numPixels - 1)) →
      s.phase = .present → a < s.cfg.numPixels →
      s.outputs.dispData = (s.pixel a).r ++ (s.pixel a).g ++ (s.pixel a).b) ∧
    (∀ (q : List Byte) (c : CycleIn), c.dispAddr = s.inp.dispAddr → c.rst = s.inp.rst →
      ({ s with inq := q, inp := c } : State).outputs = s.outputs) ∧
    (∀ c : CycleIn, c.dispAddr = s.inp.dispAddr → ¬ (s.phase = .read ∧ s.tmr = s.cfg.timeoutCycles) →
      ({ s with inp := c } : State).outputs = s.outputs)

/-- R51, R53: in every cycle INQ answers the outputs: a flush leaves only bytes of this very cycle that the environment
keeps, and no byte is taken then; a byte offered while `rx_ready_o` is 1 leaves; otherwise INQ only gains the cycle's
arrivals, in order. In the RESET cycle of an expired READ timer that means no flush, by log entry 7. -/
def Obligations.InputQueueHandshake : Prop :=
  (∀ s : State, s.outputs.rxFlush = true → s.outputs.rxReady = false) ∧
  ∀ s t : State, step s = .next t →
    t.inq =
      if s.beginCycle.outputs.rxFlush then
        ((s.sched.headD CycleIn.idle).arrivals.filter fun a => a.keep).map fun a => a.byte
      else if s.beginCycle.outputs.rxReady then
        (s.inq ++ (s.sched.headD CycleIn.idle).arrivals.map fun a => a.byte).tail
      else s.inq ++ (s.sched.headD CycleIn.idle).arrivals.map fun a => a.byte

/-- R72, R68: in APPLY, CORRECT and PRESENT no byte is taken; arrivals wait in INQ. -/
def Obligations.NoByteTakenWhileWriterRuns : Prop :=
  ∀ s t : State, s.phase = .apply ∨ s.phase = .correct ∨ s.phase = .present → step s = .next t →
    t.inq = s.inq ++ (s.sched.headD CycleIn.idle).arrivals.map fun a => a.byte

/-- R191, R192, R194: the only error ever signalled is the truncated payload, in an RP.TIMEOUT cycle and for one cycle
only (in a RESET cycle too, log entry 7); the resync error shows nothing. -/
def Obligations.OnlyTruncationIsSignalled : Prop :=
  (∀ s : State, s.outputs.errTrunc = true ↔ s.op = some .rpTimeout) ∧
    (∀ s : State, s.outputs.rxFlush = true ↔ s.op = some .rpTimeout) ∧
    (∀ s t : State, exec .rpTimeout s = .next t →
      t.outputs.errTrunc = false ∧ t.outputs.rxFlush = false) ∧
    (∀ i : Instr, errorOf i = some .resync ↔ i = .s1Miss ∨ i = .s2Miss) ∧
    (∀ i : Instr, errorOf i = some .truncatedPayload ↔ i = .rpTimeout) ∧
    (∀ i : Instr, errorOf i ≠ some .configuration)

/-- R197: `rst_i` over timer expiry over an offered byte. At expiry the offered byte is not stored, and is flushed
unless it arrived in this very cycle and the environment keeps it (R53). -/
def Obligations.EventPriority : Prop :=
  (∀ s : State, s.inp.rst = true → s.op = some .reset) ∧
    (∀ s : State, s.inp.rst = false → s.phase = .read → s.tmr = s.cfg.timeoutCycles →
      s.op = some .rpTimeout ∧
        ∀ t : State, exec .rpTimeout s = .next t → t.pbuf = s.pbuf ∧
          t.inq = (s.inp.arrivals.filter fun a => a.keep).map fun a => a.byte) ∧
    (∀ (s : State) (b : Byte) (rest : List Byte), s.inp.rst = false → s.outputs.rxReady = true →
      s.inq = b :: rest →
      ∃ i ∈ [Instr.s1Miss, .s1Hit, .s2Again, .s2Start, .s2Miss, .rpStore, .rpLast], s.op = some i ∧
        ∀ t : State, exec i s = .next t → t.inq = rest)

/-- R86: the three classes, disjoint in a valid configuration. -/
def Obligations.ByteClasses : Prop :=
  ∀ (c : Cfg) (b : Byte), c.valid = true →
    (c.classify b = .m1 ↔ b = c.marker1) ∧ (c.classify b = .m2 ↔ b = c.marker2) ∧
      (c.classify b = .other ↔ b ≠ c.marker1 ∧ b ≠ c.marker2)

/-- R95: in every cycle that takes a byte the machine does what the pure function `fd` says: the same next decoder state
and the same effect. -/
def Obligations.CycleAgreesWithPureDecoder : Prop :=
  ∀ (s : State) (b : Byte) (rest : List Byte), s.cfg.valid = true → s.inp.rst = false →
    s.outputs.rxReady = true → s.rxcnt < s.cfg.dataLength → s.inq = b :: rest →
    ∃ (i : Instr) (t : State), s.op = some i ∧ exec i s = .next t ∧ t.inq = rest ∧
      t.fdState = (fd s.cfg s.fdState b).1 ∧
      (match (fd s.cfg s.fdState b).2 with
        | .nothing => t = { s with inq := rest, phase := t.phase }
        | .startTimer => t = { s with inq := rest, phase := .read, rxcnt := 0, tmr := 0 }
        | .store o b' =>
          t = { s with inq := rest, rxcnt := o + 1, tmr := s.tmr + 1, pbuf := t.pbuf } ∧
            (∀ a, t.pbufByte a = if a = o then b' else s.pbufByte a)
        | .handOver o b' =>
          t.phase = .apply ∧ t.px = 0 ∧ t.py = 0 ∧ t.pix = s.pix ∧
            (∀ a, t.pbufByte a = if a = o then b' else s.pbufByte a))

/-! ## Whole-machine rules -/

/-- R20, column "written by": a register or memory changes only in the operations listed for it, and CFG (R8) in none.
RESET makes both memories unspecified (R221). For INQ, which R20's table does not list, R51, R53, R61 and R220. The clauses
on the model's own counters are log entries 3 (epoch) and 4 (cycle), the schedule's log entry 5. -/
def Obligations.WrittenOnlyByListedOperations : Prop :=
  ∀ (i : Instr) (s t : State), exec i s = .next t →
    (t.rxcnt ≠ s.rxcnt → i ∈ [Instr.s2Start, .rpStore, .rpLast, .rpTimeout, .reset]) ∧
    (t.tmr ≠ s.tmr → i ∈ [Instr.s2Start, .rpWait, .rpStore, .rpLast, .rpTimeout, .reset]) ∧
    (t.px ≠ s.px → i ∈ [Instr.rpLast, .mwWrpix, .mwWrlast, .mwSwap, .mwSwlast, .reset]) ∧
    (t.py ≠ s.py → i ∈ [Instr.rpLast, .mwWrpix, .mwWrlast, .reset]) ∧
    ((∃ o, Mem.read t.pbuf o ≠ Mem.read s.pbuf o) → i ∈ [Instr.rpStore, .rpLast, .reset]) ∧
    ((∃ j, Mem.read t.pix j ≠ Mem.read s.pix j) →
      i ∈ [Instr.mwWrpix, .mwWrlast, .mwSwap, .mwSwlast, .reset]) ∧
    (s.op = some i → t.phase ≠ s.phase →
      i ∈ [Instr.s1Hit, .s2Start, .s2Miss, .rpLast, .rpTimeout, .mwWrlast, .mwSwlast, .mwDone,
        .illRecover, .reset]) ∧
    (t.inq ≠ s.inq →
      i ∈ [Instr.s1Miss, .s1Hit, .s2Again, .s2Start, .s2Miss, .rpStore, .rpLast, .rpTimeout, .reset]) ∧
    (t.epoch ≠ s.epoch → i = .reset) ∧
    t.cfg = s.cfg ∧ t.inp = s.inp ∧ t.sched = s.sched ∧ t.inqDepth = s.inqDepth ∧ t.cycle = s.cycle

/-- R8: no cycle changes the configuration. -/
def Obligations.ConfigurationNeverChanges : Prop :=
  ∀ s t : State, step s = .next t → t.cfg = s.cfg

/-- R32 (g), R56, R126: without a reset, PIX changes only in cycles with PHASE APPLY or CORRECT; in particular no cycle
of the Frame Decoder, and no truncated frame, changes it, and it is constant while `pres_req_o` is 1. -/
def Obligations.PixelsChangeOnlyInApplyAndCorrect : Prop :=
  ∀ s t : State, step s = .next t → (s.sched.headD CycleIn.idle).rst = false →
    s.phase ≠ .apply → s.phase ≠ .correct → t.pix = s.pix ∧ ∀ i, t.pixel i = s.pixel i

/-- R124: the only ways out of READ, and that no byte value can end, restart or otherwise steer the read. -/
def Obligations.ReadEndsOnlyByCountTimerOrReset : Prop :=
  (∀ (s t : State) (i : Instr), s.phase = .read → s.op = some i → exec i s = .next t →
    t.phase ≠ .read → i = .rpLast ∨ i = .rpTimeout ∨ i = .reset) ∧
    (∀ (s : State) (b b' : Byte) (rest : List Byte), s.phase = .read →
      ({ s with inq := b :: rest } : State).op = ({ s with inq := b' :: rest } : State).op)

/-- R151: APPLY is entered only by RP.LAST, and then (under the invariant) every byte of PBUF has been written. -/
def Obligations.ApplyEnteredOnlyWithWholePayload : Prop :=
  (∀ (i : Instr) (s t : State), exec i s = .next t → s.phase ≠ .apply → t.phase = .apply →
    i = .rpLast) ∧
    (∀ s t : State, Inv s → step s = .next t → s.phase ≠ .apply → t.phase = .apply →
      s.beginCycle.op = some .rpLast ∧ ∀ o, o < t.cfg.dataLength → ∃ b, Mem.read t.pbuf o = some b)

/-- R70: no byte stored in PBUF or PIX can influence PHASE, nor any counter, nor what is taken from the stream: two
states that differ only in the memories' contents stay so. -/
def Obligations.StoredBytesNeverSteer : Prop :=
  ∀ (s t : State) (m : Mem Byte) (p : Mem Pixel), step s = .next t →
    ∃ t' : State, step { s with pbuf := m, pix := p } = .next t' ∧
      t = { t' with pbuf := t.pbuf, pix := t.pix }

/-! ## The invariant -/

/-- R32: the invariant holds after power-up with any configuration. -/
def Obligations.PowerUpMeetsInvariant : Prop :=
  ∀ c : Cfg, c.valid = true → Inv (State.powerUp c)

/-- R32: every cycle keeps the invariant, whatever the environment does in it. -/
def Obligations.StepKeepsInvariant : Prop :=
  ∀ s t : State, Inv s → step s = .next t → Inv t

/-- R190, R54, R55: under the invariant nothing stops the machine: no access out of range, no missing byte, no refusal;
only an overflow of the input buffer, which is the transport's (R72), ends a run; that it does is the model's choice (log
entry 6). -/
def Obligations.OnlyInputOverflowStops : Prop :=
  ∀ s : State, Inv s → (∃ t, step s = .next t) ∨ (s.willOverflow = true ∧ step s = .fault .inqOverflow)

/-- R20, R22, R23, R24: under the invariant every counter fits its register, so its width never wraps. -/
def Obligations.CountersFitTheirRegisters : Prop :=
  ∀ s : State, Inv s →
    s.rxcnt < 2 ^ bitlen (s.cfg.dataLength - 1) ∧ s.tmr < 2 ^ bitlen s.cfg.timeoutCycles ∧
      s.px < 2 ^ max 1 (bitlen (s.cfg.width - 1)) ∧ s.py < 2 ^ max 1 (bitlen (s.cfg.height - 1))

/-- R149, R152, R56: under the invariant, a display read during PRESENT of the index of a logical coordinate shows the
payload's triple for it, with R and G exchanged in the Correction Region. No free value can show. -/
def Obligations.DisplayReadsPresentedImage : Prop :=
  ∀ (s : State) (x y : Nat), Inv s → s.phase = .present → x < s.cfg.width → y < s.cfg.height →
    s.inp.dispAddr = s.cfg.map x y →
    ∃ r g b : Byte,
      Mem.read s.pbuf (3 * (y * s.cfg.width + x)) = some r ∧
      Mem.read s.pbuf (3 * (y * s.cfg.width + x) + 1) = some g ∧
      Mem.read s.pbuf (3 * (y * s.cfg.width + x) + 2) = some b ∧
      s.outputs.dispData =
        if y + 1 = s.cfg.height ∧ x < s.cfg.corrN then g ++ r ++ b else r ++ g ++ b

/-! ## The mapper and the lookup -/

/-- R170, R173: `MAP` is a bijection of the logical coordinates onto the physical indices, for both schemes and for
any table a device supplies. -/
def Obligations.MapIsBijection : Prop :=
  ∀ c : Cfg, c.valid = true →
    (∀ x y, x < c.width → y < c.height →
      c.map x y < c.numPixels ∧ c.unmap (c.map x y) = (x, y)) ∧
    (∀ i, i < c.numPixels →
      (c.unmap i).1 < c.width ∧ (c.unmap i).2 < c.height ∧ c.map (c.unmap i).1 (c.unmap i).2 = i)

/-- R171, R172: the formulas of the two schemes. The serpentine one the spec itself takes from general knowledge (K1,
log entry 12). -/
def Obligations.SchemeFormulas : Prop :=
  ∀ (c : Cfg) (x y : Nat),
    (c.addrScheme = .linear → c.map x y = y * c.width + x) ∧
    (c.addrScheme = .serpentine → y % 2 = 0 → c.map x y = y * c.width + x) ∧
    (c.addrScheme = .serpentine → y % 2 = 1 → x < c.width →
      (c.map x y : Int) = (y : Int) * c.width + ((c.width : Int) - 1 - x))

/-- R173: the two schemes agree on even rows, and are the same function on one row or one column. It rests on the
serpentine formula, which the spec takes from general knowledge (K1, log entry 12). -/
def Obligations.SchemesAgree : Prop :=
  ∀ (c : Cfg) (x y : Nat), x < c.width → y < c.height →
    y % 2 = 0 ∨ c.height = 1 ∨ c.width = 1 →
    ({ c with addrScheme := .linear } : Cfg).map x y = ({ c with addrScheme := .serpentine } : Cfg).map x y

/-- R81: a payload offset decomposes into pixel, channel, column and row, and these give it back. -/
def Obligations.PayloadOffsetsDecompose : Prop :=
  ∀ c : Cfg, c.valid = true →
    (∀ o, o < c.dataLength →
      payloadPixel o < c.numPixels ∧ payloadChannel o < 3 ∧ c.column (payloadPixel o) < c.width ∧
        c.row (payloadPixel o) < c.height ∧
        c.payloadOffset (c.column (payloadPixel o)) (c.row (payloadPixel o)) (payloadChannel o) = o) ∧
    (∀ x y ch, x < c.width → y < c.height → ch < 3 →
      c.payloadOffset x y ch < c.dataLength ∧ payloadChannel (c.payloadOffset x y ch) = ch ∧
        c.column (payloadPixel (c.payloadOffset x y ch)) = x ∧
        c.row (payloadPixel (c.payloadOffset x y ch)) = y)

/-- R174, R176, R177: the region, the lookup, and that the exchange is an involution. -/
def Obligations.CorrectionLookup : Prop :=
  (∀ (c : Cfg) (x y : Nat), c.valid = true →
    (c.region x y = true ↔ y = c.height - 1 ∧ x < c.corrN)) ∧
    (∀ (e : LutEntry) (t : Pixel),
      e.permute t = ⟨t.pick e.selR, t.pick e.selG, t.pick e.selB⟩ ∧ t.pick .red = t.r ∧
        t.pick .green = t.g ∧ t.pick .blue = t.b) ∧
    (∀ r g b : Byte, (corrLut false).permute ⟨r, g, b⟩ = ⟨r, g, b⟩ ∧
      (corrLut true).permute ⟨r, g, b⟩ = ⟨g, r, b⟩) ∧
    (∀ t : Pixel, (corrLut true).permute ((corrLut true).permute t) = t)

/-- R80, R94: the bytes of a conformant frame: `FRAME_LENGTH` of them, the two markers, then channel by channel the
pixels in order. -/
def Obligations.FrameBytesOnTheWire : Prop :=
  ∀ (c : Cfg) (ps : List Pixel), (Item.frame ps).wellFormed c = true →
    ((Item.frame ps).bytes c).length = c.frameLength ∧
      ((Item.frame ps).bytes c)[0]? = some c.marker1 ∧ ((Item.frame ps).bytes c)[1]? = some c.marker2 ∧
      ∀ (k : Nat) (p : Pixel), ps[k]? = some p →
        ((Item.frame ps).bytes c)[2 + 3 * k]? = some p.r ∧
          ((Item.frame ps).bytes c)[2 + 3 * k + 1]? = some p.g ∧
          ((Item.frame ps).bytes c)[2 + 3 * k + 2]? = some p.b

/-! ## Runs of several cycles -/

/-- R94, R112: bytes none of which is `MARKER1` are all consumed in SEEK1, one a cycle, with no other effect and nothing
shown. -/
def Obligations.JunkIsConsumedSilently : Prop :=
  ∀ (s : State) (junk rest : List Byte), s.cfg.valid = true → s.inqDepth = none → s.phase = .seek1 →
    s.inq = junk ++ rest → (∀ b ∈ junk, b ≠ s.cfg.marker1) → s.noReset junk.length →
    ∃ t : State, run junk.length s = .next t ∧ t.phase = .seek1 ∧
      t.inq = rest ++ s.arriving junk.length ∧ t.pix = s.pix ∧ t.pbuf = s.pbuf ∧
      t.rxcnt = s.rxcnt ∧ t.tmr = s.tmr ∧ t.px = s.px ∧ t.py = s.py ∧ events junk.length s = []

/-- R123: complete reception with any number of waits in between. From the first READ cycle on, as long as the machine
stays in READ and then comes to APPLY, the bytes in PBUF are the first `DATA_LENGTH` bytes of the stream (what INQ held
and what arrived), in order, and exactly those have been taken. -/
def Obligations.CompleteReception : Prop :=
  ∀ (s t : State) (n : Nat), s.phase = .read → s.rxcnt = 0 →
    (∀ m, m < n → ∃ u, run m s = .next u ∧ u.phase = .read) →
    run n s = .next t → t.phase = .apply →
    (∀ o, o < s.cfg.dataLength → Mem.read t.pbuf o = (s.inq ++ s.arriving n)[o]?) ∧
      s.cfg.dataLength ≤ (s.inq ++ s.arriving n).length ∧
      t.inq = (s.inq ++ s.arriving n).drop s.cfg.dataLength

/-- R121, R192, R234: in READ, while the stream stays silent, the machine waits until TMR reaches `TIMEOUT_CYCLES`; the
cycle after that is the truncation trap, it shows one error pulse and nothing else, and PIX is unchanged. -/
def Obligations.SilenceEndsInTruncation : Prop :=
  ∀ s : State, s.cfg.valid = true → s.phase = .read → s.tmr ≤ s.cfg.timeoutCycles → s.inq = [] →
    s.silent (s.cfg.timeoutCycles - s.tmr + 1) → s.noReset (s.cfg.timeoutCycles - s.tmr + 1) →
    (∀ n, n ≤ s.cfg.timeoutCycles - s.tmr →
      ∃ t, run n s = .next t ∧ t.phase = .read ∧ t.tmr = s.tmr + n ∧ t.rxcnt = s.rxcnt) ∧
      ∃ t, run (s.cfg.timeoutCycles - s.tmr + 1) s = .next t ∧ t.phase = .seek1 ∧ t.rxcnt = 0 ∧
        t.tmr = 0 ∧ t.inq = [] ∧ t.pix = s.pix ∧ t.pbuf = s.pbuf ∧
        events (s.cfg.timeoutCycles - s.tmr + 1) s = [.truncatedPayload]

/-- R147: APPLY lasts exactly `NUM_PIXELS` cycles, writes one pixel in each, in row-major order and each once, and so
overwrites PIX wholesale with the payload. -/
def Obligations.ApplyWritesWholeImage : Prop :=
  ∀ (s : State) (n : Nat), s.cfg.valid = true → s.inqDepth = none → s.phase = .apply → s.px = 0 →
    s.py = 0 → n ≤ s.cfg.numPixels → s.noReset n →
    ∃ t, run n s = .next t ∧
      t.phase =
        (if n < s.cfg.numPixels then .apply else if s.cfg.corrN = 0 then .present else .correct) ∧
      t.inq = s.inq ++ s.arriving n ∧ t.pbuf = s.pbuf ∧ events n s =
        (if t.phase = .present then [.present t.image] else []) ∧
      ∀ x y, x < s.cfg.width → y < s.cfg.height →
        t.pixel (s.cfg.map x y) =
          if y * s.cfg.width + x < n then
            ⟨s.pbufByte (3 * (y * s.cfg.width + x)), s.pbufByte (3 * (y * s.cfg.width + x) + 1),
              s.pbufByte (3 * (y * s.cfg.width + x) + 2)⟩
          else s.pixel (s.cfg.map x y)

/-- R148: CORRECT lasts exactly `CORR_N` cycles, none when there is no region, and exchanges R and G of exactly the
region's pixels, one pixel a cycle and each once. -/
def Obligations.CorrectSwapsRegionOnce : Prop :=
  (∀ s t : State, s.cfg.corrN = 0 → s.phase ≠ .correct → step s = .next t → t.phase ≠ .correct) ∧
  ∀ (s : State) (n : Nat), s.cfg.valid = true → s.inqDepth = none → s.phase = .correct → s.px = 0 →
    1 ≤ s.cfg.corrN → n ≤ s.cfg.corrN → s.noReset n →
    ∃ t, run n s = .next t ∧ t.phase = (if n < s.cfg.corrN then .correct else .present) ∧
      ∀ x y, x < s.cfg.width → y < s.cfg.height →
        t.pixel (s.cfg.map x y) =
          if y + 1 = s.cfg.height ∧ x < n then
            ⟨(s.pixel (s.cfg.map x y)).g, (s.pixel (s.cfg.map x y)).r, (s.pixel (s.cfg.map x y)).b⟩
          else s.pixel (s.cfg.map x y)

/-- R150: the image depends on the payload and the configuration alone: two machines that begin APPLY with the same
payload, whatever their PIX held before, present the same image. -/
def Obligations.ImageDependsOnPayloadOnly : Prop :=
  ∀ s s' : State, s.cfg.valid = true → s'.cfg = s.cfg → s.inqDepth = none → s'.inqDepth = none →
    s.phase = .apply → s'.phase = .apply → s.px = 0 → s.py = 0 → s'.px = 0 → s'.py = 0 →
    (∀ o, o < s.cfg.dataLength → s'.pbufByte o = s.pbufByte o) →
    s.noReset (s.cfg.numPixels + s.cfg.corrN) → s'.noReset (s.cfg.numPixels + s.cfg.corrN) →
    ∃ t t', run (s.cfg.numPixels + s.cfg.corrN) s = .next t ∧
      run (s.cfg.numPixels + s.cfg.corrN) s' = .next t' ∧
      t.phase = .present ∧ t'.phase = .present ∧ t'.image = t.image

/-- R125, R149, R234: from SEEK1, with a frame at the head of INQ (its first marker byte possibly repeated `k` more
times), exactly one frame is accepted: after one cycle per byte, one per pixel and one per region pixel the machine
presents the payload's image; nothing else has been shown, and the bytes behind the frame wait in INQ. -/
def Obligations.FrameIsPresented : Prop :=
  ∀ (s : State) (k : Nat) (p rest : List Byte), s.cfg.valid = true → s.inqDepth = none →
    s.phase = .seek1 → p.length = s.cfg.dataLength →
    s.inq = List.replicate k s.cfg.marker1 ++ s.cfg.frame p ++ rest →
    s.noReset (k + 2 + s.cfg.dataLength + s.cfg.numPixels + s.cfg.corrN) →
    ∃ t, run (k + 2 + s.cfg.dataLength + s.cfg.numPixels + s.cfg.corrN) s = .next t ∧
      t.phase = .present ∧
      t.inq = rest ++ s.arriving (k + 2 + s.cfg.dataLength + s.cfg.numPixels + s.cfg.corrN) ∧
      events (k + 2 + s.cfg.dataLength + s.cfg.numPixels + s.cfg.corrN) s = [.present t.image] ∧
      ∀ x y, x < s.cfg.width → y < s.cfg.height →
        ∃ r g b : Byte, p[3 * (y * s.cfg.width + x)]? = some r ∧
          p[3 * (y * s.cfg.width + x) + 1]? = some g ∧ p[3 * (y * s.cfg.width + x) + 2]? = some b ∧
          Mem.read t.pix (s.cfg.map x y) =
            some (if y + 1 = s.cfg.height ∧ x < s.cfg.corrN then ⟨g, r, b⟩ else ⟨r, g, b⟩)

/-- R145, R232: PRESENT is left only by `pres_done_i` (or a reset): as long as the driver does not answer, the machine
holds, takes no byte and keeps PIX. -/
def Obligations.PresentWaitsForDriver : Prop :=
  ∀ (s : State) (n : Nat), s.cfg.valid = true → s.inqDepth = none → s.phase = .present →
    s.noReset n → (∀ c ∈ s.sched.take n, c.done = false) →
    ∃ t, run n s = .next t ∧ t.phase = .present ∧ t.pix = s.pix ∧ t.inq = s.inq ++ s.arriving n ∧
      events n s = []

/-- R235: the event-level machine admits every cycle without a reset of the cycle-level machine: the states stand for one
another, and the events emitted are the error pulse of the cycle, and the image when a payload is complete. That the
event-level machine keeps PRESENT as a waiting state, emits the image when the last byte is taken and has no reset step is
the model's choice among what R235 offers (log entry 17, DESIGN CHOICE). -/
def Obligations.EventLevelAdmitsCyclesWithoutReset : Prop :=
  ∀ s t : State, Inv s → (s.sched.headD CycleIn.idle).rst = false → step s = .next t →
    ∃ as : List EvAction,
      evRun s.cfg s.epoch as s.abstract =
        some (t.abstract,
          (if s.beginCycle.outputs.errTrunc then [Event.truncatedPayload] else []) ++
            (if s.beginCycle.op = some .rpLast then [.present (t.abstract.image s.cfg s.epoch)] else []))
end

