-- ==== Sys2Proof/Laws/Config.lean ====
section
/-! SUPPORT. What a valid configuration gives (R10), as arithmetic facts. -/

namespace Sys2Proof

theorem Cfg.valid_iff (c : Cfg) :
    c.valid = true ↔
      1 ≤ c.width ∧ 1 ≤ c.height ∧ c.marker1 ≠ c.marker2 ∧ c.corrN ≤ c.width ∧
        c.dataLength ≤ c.timeoutCycles ∧ c.addrScheme.bijective c.numPixels = true := by
  simp [Cfg.valid, and_assoc]

theorem Cfg.valid.width_pos {c : Cfg} (h : c.valid = true) : 1 ≤ c.width := (c.valid_iff.1 h).1

theorem Cfg.valid.height_pos {c : Cfg} (h : c.valid = true) : 1 ≤ c.height := (c.valid_iff.1 h).2.1

theorem Cfg.valid.markers {c : Cfg} (h : c.valid = true) : c.marker1 ≠ c.marker2 :=
  (c.valid_iff.1 h).2.2.1

theorem Cfg.valid.corrN_le {c : Cfg} (h : c.valid = true) : c.corrN ≤ c.width :=
  (c.valid_iff.1 h).2.2.2.1

theorem Cfg.valid.timeout {c : Cfg} (h : c.valid = true) : c.dataLength ≤ c.timeoutCycles :=
  (c.valid_iff.1 h).2.2.2.2.1

theorem Cfg.valid.scheme {c : Cfg} (h : c.valid = true) : c.addrScheme.bijective c.numPixels = true :=
  (c.valid_iff.1 h).2.2.2.2.2

theorem Cfg.dataLength_eq (c : Cfg) : c.dataLength = 3 * c.numPixels := by
  simp only [Cfg.dataLength, Cfg.numPixels]
  omega

theorem Cfg.valid.numPixels_pos {c : Cfg} (h : c.valid = true) : 1 ≤ c.numPixels :=
  Nat.mul_pos (Cfg.valid.width_pos h) (Cfg.valid.height_pos h)

theorem AddrScheme.bijective_own (n : Nat) (t : List Nat) :
    (AddrScheme.own t).bijective n = true ↔ t.length = n ∧ (∀ i ∈ t, i < n) ∧ t.Nodup := by
  simp [AddrScheme.bijective, and_assoc]

end Sys2Proof
end

