-- ==== Sys2Proof/Laws/Decode.lean ====
section
/-! SUPPORT. The operation map in words (R89, column "condition in words"), and that the decoder on a packed vector is
it. -/

namespace Sys2Proof

/-- R89 read as conditions instead of as match and mask. -/
def Sel.operation (x : Sel) : Instr :=
  if x.rst then .reset
  else
    match Phase.ofCode x.phase with
    | .seek1 => if !x.v then .s1Wait else if x.m1 then .s1Hit else .s1Miss
    | .seek2 => if !x.v then .s2Wait else if x.m2 then .s2Start else if x.m1 then .s2Again else .s2Miss
    | .read =>
      if x.exp then .rpTimeout else if !x.v then .rpWait else if x.lst then .rpLast else .rpStore
    | .apply => if x.lst then .mwWrlast else .mwWrpix
    | .correct => if x.lst then .mwSwlast else .mwSwap
    | .present => if x.done then .mwDone else .mwHold
    | .code6 => .illRecover
    | .code7 => .illRecover

@[simp] theorem Phase.ofCode_code (p : Phase) : Phase.ofCode p.code = p := by
  cases p <;> rfl

theorem decodeSel_pack_code (rst : Bool) (p : Phase) (v m1 m2 exp lst done cz : Bool) :
    decodeSel (Sel.pack ⟨rst, p.code, v, m1, m2, exp, lst, done, cz⟩) =
      some (Sel.operation ⟨rst, p.code, v, m1, m2, exp, lst, done, cz⟩) := by
  revert rst v m1 m2 exp lst done cz
  cases p <;> decide +kernel

end Sys2Proof
end

