-- ==== Sys2Proof/Laws/Memory.lean ====
section
/-! SUPPORT. The laws of sparse memories: a write is read back, leaves every other address alone, and keeps the
canonical form; two memories in that form that read alike are equal. -/

namespace Sys2Proof

variable {α : Type}

@[simp] theorem Mem.read_nil (a : Nat) : Mem.read ([] : Mem α) a = none := rfl

@[simp] theorem Mem.wf_nil : Mem.wf ([] : Mem α) = true := rfl

@[simp] theorem Mem.below_nil (n : Nat) : Mem.below ([] : Mem α) n = true := rfl

theorem Mem.read_cons (k : Nat) (v : α) (m : Mem α) (a : Nat) :
    Mem.read ((k, v) :: m) a = if k = a then some v else Mem.read m a := rfl

@[simp] theorem Mem.read_write_same (m : Mem α) (a : Nat) (v : α) :
    Mem.read (Mem.write m a v) a = some v := by
  induction m with
  | nil => simp [Mem.write, Mem.read]
  | cons e m ih =>
    obtain ⟨k, w⟩ := e
    simp only [Mem.write]
    split
    · simp [Mem.read]
    · split
      · simp [Mem.read]
      · rw [Mem.read_cons, if_neg (by omega), ih]

theorem Mem.read_write_of_ne (m : Mem α) {a b : Nat} (v : α) (h : b ≠ a) :
    Mem.read (Mem.write m a v) b = Mem.read m b := by
  induction m with
  | nil => simp [Mem.write, Mem.read, h.symm]
  | cons e m ih =>
    obtain ⟨k, w⟩ := e
    simp only [Mem.write]
    split
    · rw [Mem.read_cons, if_neg h.symm]
    · split
      · rw [Mem.read_cons, Mem.read_cons, if_neg h.symm, if_neg (by omega)]
      · rw [Mem.read_cons, Mem.read_cons, ih]

theorem Mem.read_write (m : Mem α) (a b : Nat) (v : α) :
    Mem.read (Mem.write m a v) b = if b = a then some v else Mem.read m b := by
  split
  · next h => rw [h, Mem.read_write_same]
  · next h => rw [Mem.read_write_of_ne m v h]

theorem Mem.wf_cons_iff (k : Nat) (v : α) (m : Mem α) :
    Mem.wf ((k, v) :: m) = true ↔ Mem.wf m = true ∧ ∀ e ∈ m, k < e.1 := by
  induction m generalizing k v with
  | nil => simp [Mem.wf]
  | cons e m ih =>
    obtain ⟨k', w⟩ := e
    simp only [Mem.wf, Bool.and_eq_true, decide_eq_true_eq, List.mem_cons, forall_eq_or_imp]
    constructor
    · rintro ⟨h, hw⟩
      refine ⟨hw, h, fun e he => ?_⟩
      have := ((ih k' w).1 hw).2 e he
      omega
    · rintro ⟨hw, h, -⟩
      exact ⟨h, hw⟩

/-- The addresses a write lists: its own, and those listed before. -/
theorem Mem.mem_write (m : Mem α) (a : Nat) (v : α) (e : Nat × α) (h : e ∈ Mem.write m a v) :
    e = (a, v) ∨ e ∈ m := by
  induction m with
  | nil => simpa [Mem.write] using h
  | cons x m ih =>
    obtain ⟨k, w⟩ := x
    simp only [Mem.write] at h
    split at h
    · simpa using h
    · split at h
      · simp only [List.mem_cons] at h ⊢
        tauto
      · simp only [List.mem_cons] at h ⊢
        rcases h with h | h
        · exact .inr (.inl h)
        · rcases ih h with h | h
          · exact .inl h
          · exact .inr (.inr h)

theorem Mem.wf_write (m : Mem α) (a : Nat) (v : α) (h : Mem.wf m = true) :
    Mem.wf (Mem.write m a v) = true := by
  induction m with
  | nil => rfl
  | cons x m ih =>
    obtain ⟨k, w⟩ := x
    obtain ⟨hm, hk⟩ := (Mem.wf_cons_iff k w m).1 h
    simp only [Mem.write]
    split
    · next ha =>
      refine (Mem.wf_cons_iff ..).2 ⟨h, fun e he => ?_⟩
      rcases List.mem_cons.1 he with rfl | he
      · exact ha
      · exact lt_trans ha (hk e he)
    · split
      · next ha => exact (Mem.wf_cons_iff ..).2 ⟨hm, fun e he => ha ▸ hk e he⟩
      · next h1 h2 =>
        refine (Mem.wf_cons_iff ..).2 ⟨ih hm, fun e he => ?_⟩
        rcases Mem.mem_write m a v e he with rfl | he
        · change k < a
          omega
        · exact hk e he

theorem Mem.below_iff (m : Mem α) (n : Nat) :
    Mem.below m n = true ↔ ∀ e ∈ m, e.1 < n := by
  simp [Mem.below]

theorem Mem.below_write (m : Mem α) (n a : Nat) (v : α) (h : Mem.below m n = true) (ha : a < n) :
    Mem.below (Mem.write m a v) n = true := by
  rw [Mem.below_iff] at h ⊢
  intro e he
  rcases Mem.mem_write m a v e he with rfl | he
  · exact ha
  · exact h e he

theorem Mem.mem_of_read (m : Mem α) (a : Nat) (v : α) (h : Mem.read m a = some v) : (a, v) ∈ m := by
  induction m with
  | nil => simp at h
  | cons x m ih =>
    obtain ⟨k, w⟩ := x
    rw [Mem.read_cons] at h
    split at h
    · next hk =>
      cases h
      simp [hk]
    · simp [ih h]

theorem Mem.read_eq_none_of_below (m : Mem α) (n a : Nat) (h : Mem.below m n = true) (ha : n ≤ a) :
    Mem.read m a = none := by
  cases hr : Mem.read m a with
  | none => rfl
  | some v =>
    have := (Mem.below_iff m n).1 h _ (Mem.mem_of_read m a v hr)
    simp only at this
    omega

theorem Mem.read_eq_none_of_lt (m : Mem α) (a : Nat) (h : ∀ e ∈ m, a < e.1) : Mem.read m a = none := by
  cases hr : Mem.read m a with
  | none => rfl
  | some v => exact absurd (h _ (Mem.mem_of_read m a v hr)) (lt_irrefl a)

/-- Equal memories are equal data. -/
theorem Mem.ext_read (m m' : Mem α) (h : Mem.wf m = true) (h' : Mem.wf m' = true)
    (hr : ∀ a, Mem.read m a = Mem.read m' a) : m = m' := by
  induction m generalizing m' with
  | nil =>
    cases m' with
    | nil => rfl
    | cons x m' =>
      obtain ⟨k, w⟩ := x
      have := hr k
      simp [Mem.read_cons] at this
  | cons x m ih =>
    obtain ⟨k, w⟩ := x
    obtain ⟨hm, hk⟩ := (Mem.wf_cons_iff k w m).1 h
    cases m' with
    | nil =>
      have := hr k
      simp [Mem.read_cons] at this
    | cons x' m' =>
      obtain ⟨k', w'⟩ := x'
      obtain ⟨hm', hk'⟩ := (Mem.wf_cons_iff k' w' m').1 h'
      have hkk : k = k' := by
        rcases lt_trichotomy k k' with hlt | rfl | hlt
        · have hn : Mem.read m' k = none :=
            Mem.read_eq_none_of_lt _ _ fun e he => lt_trans hlt (hk' e he)
          have := hr k
          rw [Mem.read_cons, Mem.read_cons, if_pos rfl, if_neg (by omega), hn] at this
          cases this
        · rfl
        · have hn : Mem.read m k' = none :=
            Mem.read_eq_none_of_lt _ _ fun e he => lt_trans hlt (hk e he)
          have := hr k'
          rw [Mem.read_cons, Mem.read_cons, if_pos rfl, if_neg (by omega), hn] at this
          cases this
      subst hkk
      have hw : w = w' := by
        have := hr k
        simpa [Mem.read_cons] using this
      subst hw
      congr 1
      refine ih m' hm hm' fun a => ?_
      by_cases ha : a = k
      · subst ha
        rw [Mem.read_eq_none_of_lt m _ hk, Mem.read_eq_none_of_lt m' _ hk']
      · have := hr a
        rwa [Mem.read_cons, Mem.read_cons, if_neg (Ne.symm ha), if_neg (Ne.symm ha)] at this

end Sys2Proof
end

