-- ==== Sys2Proof/Laws/State.lean ====
section
/-! SUPPORT. One lemma per field and shared update of the state, each true by unfolding, so that no later proof unfolds a
record update; and what each read of memory sees. -/

namespace Sys2Proof.Machine

@[simp] theorem State.latch_cfg (s : State) : s.latch.cfg = s.cfg := rfl
@[simp] theorem State.latch_phase (s : State) : s.latch.phase = s.phase := rfl
@[simp] theorem State.latch_rxcnt (s : State) : s.latch.rxcnt = s.rxcnt := rfl
@[simp] theorem State.latch_tmr (s : State) : s.latch.tmr = s.tmr := rfl
@[simp] theorem State.latch_px (s : State) : s.latch.px = s.px := rfl
@[simp] theorem State.latch_py (s : State) : s.latch.py = s.py := rfl
@[simp] theorem State.latch_pbuf (s : State) : s.latch.pbuf = s.pbuf := rfl
@[simp] theorem State.latch_pix (s : State) : s.latch.pix = s.pix := rfl
@[simp] theorem State.latch_inq (s : State) : s.latch.inq = s.inq := rfl
@[simp] theorem State.latch_inqDepth (s : State) : s.latch.inqDepth = s.inqDepth := rfl
@[simp] theorem State.latch_inp (s : State) : s.latch.inp = s.sched.headD CycleIn.idle := rfl
@[simp] theorem State.latch_sched (s : State) : s.latch.sched = s.sched.tail := rfl
@[simp] theorem State.latch_cycle (s : State) : s.latch.cycle = s.cycle + 1 := rfl
@[simp] theorem State.latch_epoch (s : State) : s.latch.epoch = s.epoch := rfl

@[simp] theorem State.receive_cfg (s : State) : s.receive.cfg = s.cfg := rfl
@[simp] theorem State.receive_phase (s : State) : s.receive.phase = s.phase := rfl
@[simp] theorem State.receive_rxcnt (s : State) : s.receive.rxcnt = s.rxcnt := rfl
@[simp] theorem State.receive_tmr (s : State) : s.receive.tmr = s.tmr := rfl
@[simp] theorem State.receive_px (s : State) : s.receive.px = s.px := rfl
@[simp] theorem State.receive_py (s : State) : s.receive.py = s.py := rfl
@[simp] theorem State.receive_pbuf (s : State) : s.receive.pbuf = s.pbuf := rfl
@[simp] theorem State.receive_pix (s : State) : s.receive.pix = s.pix := rfl
@[simp] theorem State.receive_inq (s : State) :
    s.receive.inq = s.inq ++ s.inp.arrivals.map fun a => a.byte := rfl
@[simp] theorem State.receive_inqDepth (s : State) : s.receive.inqDepth = s.inqDepth := rfl
@[simp] theorem State.receive_inp (s : State) : s.receive.inp = s.inp := rfl
@[simp] theorem State.receive_sched (s : State) : s.receive.sched = s.sched := rfl
@[simp] theorem State.receive_cycle (s : State) : s.receive.cycle = s.cycle := rfl
@[simp] theorem State.receive_epoch (s : State) : s.receive.epoch = s.epoch := rfl

@[simp] theorem State.beginCycle_cfg (s : State) : s.beginCycle.cfg = s.cfg := rfl
@[simp] theorem State.beginCycle_phase (s : State) : s.beginCycle.phase = s.phase := rfl
@[simp] theorem State.beginCycle_rxcnt (s : State) : s.beginCycle.rxcnt = s.rxcnt := rfl
@[simp] theorem State.beginCycle_tmr (s : State) : s.beginCycle.tmr = s.tmr := rfl
@[simp] theorem State.beginCycle_px (s : State) : s.beginCycle.px = s.px := rfl
@[simp] theorem State.beginCycle_py (s : State) : s.beginCycle.py = s.py := rfl
@[simp] theorem State.beginCycle_pbuf (s : State) : s.beginCycle.pbuf = s.pbuf := rfl
@[simp] theorem State.beginCycle_pix (s : State) : s.beginCycle.pix = s.pix := rfl
@[simp] theorem State.beginCycle_inq (s : State) :
    s.beginCycle.inq = s.inq ++ (s.sched.headD CycleIn.idle).arrivals.map fun a => a.byte := rfl
@[simp] theorem State.beginCycle_inqDepth (s : State) : s.beginCycle.inqDepth = s.inqDepth := rfl
@[simp] theorem State.beginCycle_inp (s : State) : s.beginCycle.inp = s.sched.headD CycleIn.idle := rfl
@[simp] theorem State.beginCycle_sched (s : State) : s.beginCycle.sched = s.sched.tail := rfl
@[simp] theorem State.beginCycle_cycle (s : State) : s.beginCycle.cycle = s.cycle + 1 := rfl
@[simp] theorem State.beginCycle_epoch (s : State) : s.beginCycle.epoch = s.epoch := rfl

@[simp] theorem State.truncationTrap_cfg (s : State) : s.truncationTrap.cfg = s.cfg := rfl
@[simp] theorem State.truncationTrap_phase (s : State) : s.truncationTrap.phase = .seek1 := rfl
@[simp] theorem State.truncationTrap_rxcnt (s : State) : s.truncationTrap.rxcnt = 0 := rfl
@[simp] theorem State.truncationTrap_tmr (s : State) : s.truncationTrap.tmr = 0 := rfl
@[simp] theorem State.truncationTrap_px (s : State) : s.truncationTrap.px = s.px := rfl
@[simp] theorem State.truncationTrap_py (s : State) : s.truncationTrap.py = s.py := rfl
@[simp] theorem State.truncationTrap_pbuf (s : State) : s.truncationTrap.pbuf = s.pbuf := rfl
@[simp] theorem State.truncationTrap_pix (s : State) : s.truncationTrap.pix = s.pix := rfl
@[simp] theorem State.truncationTrap_inq (s : State) : s.truncationTrap.inq = s.flushed := rfl
@[simp] theorem State.truncationTrap_inqDepth (s : State) : s.truncationTrap.inqDepth = s.inqDepth := rfl
@[simp] theorem State.truncationTrap_inp (s : State) : s.truncationTrap.inp = s.inp := rfl
@[simp] theorem State.truncationTrap_sched (s : State) : s.truncationTrap.sched = s.sched := rfl
@[simp] theorem State.truncationTrap_cycle (s : State) : s.truncationTrap.cycle = s.cycle := rfl
@[simp] theorem State.truncationTrap_epoch (s : State) : s.truncationTrap.epoch = s.epoch := rfl

@[simp] theorem State.powerUp_cfg (c : Cfg) : (State.powerUp c).cfg = c := rfl
@[simp] theorem State.powerUp_phase (c : Cfg) : (State.powerUp c).phase = .seek1 := rfl

/-- A read of PBUF sees only PBUF and the epoch. -/
theorem State.pbufByte_congr {s t : State} (h : s.pbuf = t.pbuf) (he : s.epoch = t.epoch) (o : Nat) :
    s.pbufByte o = t.pbufByte o := by
  simp [State.pbufByte, h, he]

/-- A read of PIX sees only PIX and the epoch. -/
theorem State.pixel_congr {s t : State} (h : s.pix = t.pix) (he : s.epoch = t.epoch) (i : Nat) :
    s.pixel i = t.pixel i := by
  simp [State.pixel, h, he]

@[simp] theorem State.beginCycle_pbufByte (s : State) (o : Nat) :
    s.beginCycle.pbufByte o = s.pbufByte o := rfl

@[simp] theorem State.beginCycle_pixel (s : State) (i : Nat) : s.beginCycle.pixel i = s.pixel i := rfl

@[simp] theorem State.beginCycle_payloadTriple (s : State) (x y : Nat) :
    s.beginCycle.payloadTriple x y = s.payloadTriple x y := rfl

@[simp] theorem State.beginCycle_expired (s : State) : s.beginCycle.expired = s.expired := rfl

@[simp] theorem State.beginCycle_rxReady (s : State) : s.beginCycle.rxReady = s.rxReady := rfl

@[simp] theorem State.beginCycle_presReq (s : State) : s.beginCycle.presReq = s.presReq := rfl

end Sys2Proof.Machine
end

