-- ==== Sys2Proof/Laws/Ops.lean ====
section
/-! SUPPORT. For each shared operation, what it answers and everything it can answer with a next state. -/

namespace Sys2Proof.Machine

theorem State.takeByte_cons (s : State) (b : Byte) (rest : List Byte) (k : Byte → State → Out)
    (h : s.inq = b :: rest) : s.takeByte k = k b { s with inq := rest } := by
  simp [State.takeByte, h]

theorem State.takeByte_nil (s : State) (k : Byte → State → Out) (h : s.inq = []) :
    s.takeByte k = .fault .noByteOffered := by
  simp [State.takeByte, h]

/-- A next state out of `pop()` comes from the head of INQ. -/
theorem State.takeByte_next {s : State} {k : Byte → State → Out} {t : State}
    (h : s.takeByte k = .next t) :
    ∃ b rest, s.inq = b :: rest ∧ k b { s with inq := rest } = .next t := by
  cases hq : s.inq with
  | nil => simp [State.takeByte_nil s k hq] at h
  | cons b rest => exact ⟨b, rest, rfl, by rwa [State.takeByte_cons s b rest k hq] at h⟩

theorem State.writePbuf_of_lt (s : State) (o : Nat) (b : Byte) (k : State → Out)
    (h : o < s.cfg.dataLength) :
    s.writePbuf o b k = k { s with pbuf := Mem.write s.pbuf o b } := by
  simp [State.writePbuf, h]

theorem State.writePbuf_next {s : State} {o : Nat} {b : Byte} {k : State → Out} {t : State}
    (h : s.writePbuf o b k = .next t) :
    o < s.cfg.dataLength ∧ k { s with pbuf := Mem.write s.pbuf o b } = .next t := by
  unfold State.writePbuf at h
  split at h
  · next ho => exact ⟨ho, h⟩
  · cases h

theorem State.readPbuf3_of_le (s : State) (a : Nat) (k : Pixel → Out)
    (h : a + 3 ≤ s.cfg.dataLength) :
    s.readPbuf3 a k = k ⟨s.pbufByte a, s.pbufByte (a + 1), s.pbufByte (a + 2)⟩ := by
  simp [State.readPbuf3, h]

theorem State.readPbuf3_next {s : State} {a : Nat} {k : Pixel → Out} {t : State}
    (h : s.readPbuf3 a k = .next t) :
    a + 3 ≤ s.cfg.dataLength ∧
      k ⟨s.pbufByte a, s.pbufByte (a + 1), s.pbufByte (a + 2)⟩ = .next t := by
  unfold State.readPbuf3 at h
  split at h
  · next ha => exact ⟨ha, h⟩
  · cases h

theorem State.writePix_of_lt (s : State) (i : Nat) (p : Pixel) (k : State → Out)
    (h : i < s.cfg.numPixels) : s.writePix i p k = k { s with pix := Mem.write s.pix i p } := by
  simp [State.writePix, h]

theorem State.writePix_next {s : State} {i : Nat} {p : Pixel} {k : State → Out} {t : State}
    (h : s.writePix i p k = .next t) :
    i < s.cfg.numPixels ∧ k { s with pix := Mem.write s.pix i p } = .next t := by
  unfold State.writePix at h
  split at h
  · next hi => exact ⟨hi, h⟩
  · cases h

theorem State.readPix_of_lt (s : State) (i : Nat) (k : Pixel → Out) (h : i < s.cfg.numPixels) :
    s.readPix i k = k (s.pixel i) := by
  simp [State.readPix, h]

theorem State.readPix_next {s : State} {i : Nat} {k : Pixel → Out} {t : State}
    (h : s.readPix i k = .next t) : i < s.cfg.numPixels ∧ k (s.pixel i) = .next t := by
  unfold State.readPix at h
  split at h
  · next hi => exact ⟨hi, h⟩
  · cases h

/-- What a byte written to PBUF reads as, at every offset. -/
theorem State.pbufByte_write (s : State) (o : Nat) (b : Byte) (a : Nat) :
    ({ s with pbuf := Mem.write s.pbuf o b } : State).pbufByte a = if a = o then b else s.pbufByte a := by
  simp only [State.pbufByte, Mem.read_write]
  split <;> rfl

/-- What a triple written to PIX reads as, at every index. -/
theorem State.pixel_write (s : State) (i : Nat) (p : Pixel) (j : Nat) :
    ({ s with pix := Mem.write s.pix i p } : State).pixel j = if j = i then p else s.pixel j := by
  simp only [State.pixel, Mem.read_write]
  split <;> rfl

/-- No operation answers with a refusal. -/
theorem exec_ne_refused (i : Instr) (s : State) (r : Refusal) : exec i s ≠ .refused r := by
  cases i <;>
    simp only [exec, execReset, execS1Wait, execS1Miss, execS1Hit, execS2Wait, execS2Again,
      execS2Start, execS2Miss, execRpWait, execRpStore, execRpLast, execRpTimeout, execIllRecover,
      execMwWrpix, execMwWrlast, execMwSwap, execMwSwlast, execMwHold, execMwDone, State.takeByte,
      State.writePbuf, State.readPbuf3, State.writePix, State.readPix] <;>
    repeat' split
  all_goals simp

end Sys2Proof.Machine
end

