-- ==== Sys2Proof/Laws/Exec.lean ====
section
/-! SUPPORT. Everything each operation does when it answers a next state, one inversion lemma per meaning; later proofs
cite these instead of unfolding a meaning. -/

namespace Sys2Proof.Machine

variable {s t : State}

theorem execReset_next (h : execReset s = .next t) :
    t = { s with
      phase := .seek1, rxcnt := 0, tmr := 0, px := 0, py := 0
      pbuf := [], pix := [], epoch := s.epoch + 1, inq := s.inqAfterReady } := by
  cases h
  rfl

theorem execS1Wait_next (h : execS1Wait s = .next t) : t = s := by
  cases h
  rfl

theorem execS1Miss_next (h : execS1Miss s = .next t) :
    ∃ b rest, s.inq = b :: rest ∧ t = { s with inq := rest, phase := .seek1 } := by
  obtain ⟨b, rest, hq, h⟩ := State.takeByte_next h
  cases h
  exact ⟨b, rest, hq, rfl⟩

theorem execS1Hit_next (h : execS1Hit s = .next t) :
    ∃ b rest, s.inq = b :: rest ∧ t = { s with inq := rest, phase := .seek2 } := by
  obtain ⟨b, rest, hq, h⟩ := State.takeByte_next h
  cases h
  exact ⟨b, rest, hq, rfl⟩

theorem execS2Wait_next (h : execS2Wait s = .next t) : t = s := by
  cases h
  rfl

theorem execS2Again_next (h : execS2Again s = .next t) :
    ∃ b rest, s.inq = b :: rest ∧ t = { s with inq := rest, phase := .seek2 } := by
  obtain ⟨b, rest, hq, h⟩ := State.takeByte_next h
  cases h
  exact ⟨b, rest, hq, rfl⟩

theorem execS2Start_next (h : execS2Start s = .next t) :
    ∃ b rest, s.inq = b :: rest ∧
      t = { s with inq := rest, phase := .read, rxcnt := 0, tmr := 0 } := by
  obtain ⟨b, rest, hq, h⟩ := State.takeByte_next h
  cases h
  exact ⟨b, rest, hq, rfl⟩

theorem execS2Miss_next (h : execS2Miss s = .next t) :
    ∃ b rest, s.inq = b :: rest ∧ t = { s with inq := rest, phase := .seek1 } := by
  obtain ⟨b, rest, hq, h⟩ := State.takeByte_next h
  cases h
  exact ⟨b, rest, hq, rfl⟩

theorem execRpWait_next (h : execRpWait s = .next t) : t = { s with tmr := s.tmr + 1 } := by
  cases h
  rfl

theorem execRpStore_next (h : execRpStore s = .next t) :
    ∃ b rest, s.inq = b :: rest ∧ s.rxcnt < s.cfg.dataLength ∧
      t = { s with
        inq := rest, pbuf := Mem.write s.pbuf s.rxcnt b, rxcnt := s.rxcnt + 1, tmr := s.tmr + 1 } := by
  obtain ⟨b, rest, hq, h⟩ := State.takeByte_next h
  obtain ⟨ho, h⟩ := State.writePbuf_next h
  cases h
  exact ⟨b, rest, hq, ho, rfl⟩

theorem execRpLast_next (h : execRpLast s = .next t) :
    ∃ b rest, s.inq = b :: rest ∧ s.cfg.dataLength - 1 < s.cfg.dataLength ∧
      t = { s with
        inq := rest, pbuf := Mem.write s.pbuf (s.cfg.dataLength - 1) b
        rxcnt := 0, tmr := 0, px := 0, py := 0, phase := .apply } := by
  obtain ⟨b, rest, hq, h⟩ := State.takeByte_next h
  obtain ⟨ho, h⟩ := State.writePbuf_next h
  cases h
  exact ⟨b, rest, hq, ho, rfl⟩

theorem execRpTimeout_next (h : execRpTimeout s = .next t) : t = s.truncationTrap := by
  cases h
  rfl

theorem execIllRecover_next (h : execIllRecover s = .next t) : t = { s with phase := .seek1 } := by
  cases h
  rfl

theorem execMwWrpix_next (h : execMwWrpix s = .next t) :
    3 * s.cfg.pixelNumber s.px s.py + 3 ≤ s.cfg.dataLength ∧ s.cfg.map s.px s.py < s.cfg.numPixels ∧
      t = { s with
        pix := Mem.write s.pix (s.cfg.map s.px s.py) (s.payloadTriple s.px s.py)
        px := if s.px + 1 = s.cfg.width then 0 else s.px + 1
        py := if s.px + 1 = s.cfg.width then s.py + 1 else s.py } := by
  obtain ⟨ha, h⟩ := State.readPbuf3_next h
  obtain ⟨hi, h⟩ := State.writePix_next h
  refine ⟨ha, hi, ?_⟩
  simp only [Host.Outcome.next.injEq] at h
  rw [← h]
  split <;> rfl

theorem execMwWrlast_next (h : execMwWrlast s = .next t) :
    3 * (s.cfg.numPixels - 1) + 3 ≤ s.cfg.dataLength ∧
      s.cfg.map (s.cfg.width - 1) (s.cfg.height - 1) < s.cfg.numPixels ∧
      t = { s with
        pix := Mem.write s.pix (s.cfg.map (s.cfg.width - 1) (s.cfg.height - 1))
          ⟨s.pbufByte (3 * (s.cfg.numPixels - 1)), s.pbufByte (3 * (s.cfg.numPixels - 1) + 1),
            s.pbufByte (3 * (s.cfg.numPixels - 1) + 2)⟩
        px := 0, py := 0, phase := if s.cfg.corrN = 0 then .present else .correct } := by
  obtain ⟨ha, h⟩ := State.readPbuf3_next h
  obtain ⟨hi, h⟩ := State.writePix_next h
  cases h
  exact ⟨ha, hi, rfl⟩

theorem execMwSwap_next (h : execMwSwap s = .next t) :
    s.cfg.map s.px (s.cfg.height - 1) < s.cfg.numPixels ∧
      t = { s with
        pix := Mem.write s.pix (s.cfg.map s.px (s.cfg.height - 1))
          ((corrLut (s.cfg.region s.px (s.cfg.height - 1))).permute
            (s.pixel (s.cfg.map s.px (s.cfg.height - 1))))
        px := s.px + 1 } := by
  obtain ⟨-, h⟩ := State.readPix_next h
  obtain ⟨hi, h⟩ := State.writePix_next h
  cases h
  exact ⟨hi, rfl⟩

theorem execMwSwlast_next (h : execMwSwlast s = .next t) :
    s.cfg.map (s.cfg.corrN - 1) (s.cfg.height - 1) < s.cfg.numPixels ∧
      t = { s with
        pix := Mem.write s.pix (s.cfg.map (s.cfg.corrN - 1) (s.cfg.height - 1))
          ((corrLut true).permute (s.pixel (s.cfg.map (s.cfg.corrN - 1) (s.cfg.height - 1))))
        px := 0, phase := .present } := by
  obtain ⟨-, h⟩ := State.readPix_next h
  obtain ⟨hi, h⟩ := State.writePix_next h
  cases h
  exact ⟨hi, rfl⟩

theorem execMwHold_next (h : execMwHold s = .next t) : t = s := by
  cases h
  rfl

theorem execMwDone_next (h : execMwDone s = .next t) : t = { s with phase := .seek1 } := by
  cases h
  rfl

end Sys2Proof.Machine
end

