-- ==== Sys2Proof/Laws/PerInstr.lean ====
section
/-! SUPPORT. Laws of every instruction as syntax, one lemma per constructor: the encoded word of an operation selects
it and no other row of the operation map, and its match bits lie within its mask (R89). -/

namespace Sys2Proof.Laws.OwnRow

/-- The operation's word is its own row's alone. -/
def Statement (i : Instr) : Prop :=
  decodeSel (encode i) = some i ∧ (Instr.all.filter fun j => j.selects (encode i)) = [i] ∧
    encode i &&& i.maskBits = encode i

theorem reset : Statement .reset := ⟨rfl, rfl, rfl⟩
theorem s1Wait : Statement .s1Wait := ⟨rfl, rfl, rfl⟩
theorem s1Miss : Statement .s1Miss := ⟨rfl, rfl, rfl⟩
theorem s1Hit : Statement .s1Hit := ⟨rfl, rfl, rfl⟩
theorem s2Wait : Statement .s2Wait := ⟨rfl, rfl, rfl⟩
theorem s2Again : Statement .s2Again := ⟨rfl, rfl, rfl⟩
theorem s2Start : Statement .s2Start := ⟨rfl, rfl, rfl⟩
theorem s2Miss : Statement .s2Miss := ⟨rfl, rfl, rfl⟩
theorem rpWait : Statement .rpWait := ⟨rfl, rfl, rfl⟩
theorem rpStore : Statement .rpStore := ⟨rfl, rfl, rfl⟩
theorem rpLast : Statement .rpLast := ⟨rfl, rfl, rfl⟩
theorem rpTimeout : Statement .rpTimeout := ⟨rfl, rfl, rfl⟩
theorem illRecover : Statement .illRecover := ⟨rfl, rfl, rfl⟩
theorem mwWrpix : Statement .mwWrpix := ⟨rfl, rfl, rfl⟩
theorem mwWrlast : Statement .mwWrlast := ⟨rfl, rfl, rfl⟩
theorem mwSwap : Statement .mwSwap := ⟨rfl, rfl, rfl⟩
theorem mwSwlast : Statement .mwSwlast := ⟨rfl, rfl, rfl⟩
theorem mwHold : Statement .mwHold := ⟨rfl, rfl, rfl⟩
theorem mwDone : Statement .mwDone := ⟨rfl, rfl, rfl⟩

end Sys2Proof.Laws.OwnRow
end

