-- ==== Sys2Proof/Laws/Ports.lean ====
section
/-! SUPPORT. What the ports can carry and what the outputs say: the display address, and the truncation pulse. -/

namespace Sys2Proof.Machine

theorem lt_two_pow_bitlen (n : Nat) : n < 2 ^ bitlen n := by
  unfold bitlen
  split
  · next h => simp [h]
  · exact Nat.lt_log2_self

/-- Every index of PIX fits into `disp_addr_i`. -/
theorem lt_dispAddrWidth {c : Cfg} {i : Nat} (h : i < c.numPixels) : i < 2 ^ c.dispAddrWidth :=
  calc i ≤ c.numPixels - 1 := by omega
    _ < 2 ^ bitlen (c.numPixels - 1) := lt_two_pow_bitlen _
    _ ≤ 2 ^ c.dispAddrWidth := Nat.pow_le_pow_right (by decide) (Nat.le_max_right _ _)

/-- R30: the port carries no address of more bits than it has. -/
theorem State.dispAddr_lt (s : State) : s.dispAddr < 2 ^ s.cfg.dispAddrWidth :=
  Nat.mod_lt _ (Nat.two_pow_pos _)

/-- The index of a pixel reaches the port as it is. -/
theorem State.dispAddr_of_lt {s : State} (h : s.inp.dispAddr < s.cfg.numPixels) :
    s.dispAddr = s.inp.dispAddr :=
  Nat.mod_eq_of_lt (lt_dispAddrWidth h)

/-- When the truncated-payload pulse shows. -/
theorem State.truncationPulse_iff (s : State) :
    s.truncationPulse = true ↔ s.phase = .read ∧ s.tmr = s.cfg.timeoutCycles ∧ s.inp.rst = false := by
  simp [State.truncationPulse, State.expired, and_assoc]

/-- No byte is taken while the pulse shows. -/
theorem State.rxReady_of_truncationPulse {s : State} (h : s.truncationPulse = true) : s.rxReady = false := by
  obtain ⟨hp, ht, -⟩ := s.truncationPulse_iff.mp h
  simp [State.rxReady, State.expired, hp, ht]

end Sys2Proof.Machine
end

