-- ==== Sys2Proof/Laws/Step.lean ====
section
/-! SUPPORT. What a step does: the operation of a cycle in words, and the one case in which a step answers a next
state. -/

namespace Sys2Proof.Machine

/-- The operation of a cycle, from PHASE, the inputs and the condition bits (R89). -/
theorem State.op_eq (s : State) : s.op = some s.sel.operation :=
  decodeSel_pack_code s.inp.rst s.phase s.condV s.condM1 s.condM2 s.condExp s.condLst s.condDone s.condCz

/-- The operation of a cycle with PHASE taken out of its code. -/
theorem State.operation_eq (s : State) :
    s.sel.operation =
      if s.inp.rst then .reset
      else
        match s.phase with
        | .seek1 => if !s.condV then .s1Wait else if s.condM1 then .s1Hit else .s1Miss
        | .seek2 =>
          if !s.condV then .s2Wait else if s.condM2 then .s2Start
          else if s.condM1 then .s2Again else .s2Miss
        | .read =>
          if s.condExp then .rpTimeout else if !s.condV then .rpWait
          else if s.condLst then .rpLast else .rpStore
        | .apply => if s.condLst then .mwWrlast else .mwWrpix
        | .correct => if s.condLst then .mwSwlast else .mwSwap
        | .present => if s.condDone then .mwDone else .mwHold
        | .code6 => .illRecover
        | .code7 => .illRecover := by
  simp only [Sel.operation, State.sel, Phase.ofCode_code]
  cases s.phase <;> rfl

/-- A step that answers a next state executes the operation of its cycle. -/
theorem step_next {s t : State} (h : step s = .next t) :
    s.cfg.valid = true ∧ s.willOverflow = false ∧
      exec s.beginCycle.sel.operation s.beginCycle = .next t := by
  unfold step at h
  rw [State.op_eq] at h
  split at h
  · next hv =>
    split at h
    · cases h
    · next ho => exact ⟨hv, by simpa using ho, h⟩
  · cases h

/-- A step in an admitted cycle is the operation of that cycle. -/
theorem step_of_op {s : State} {i : Instr} (hv : s.cfg.valid = true) (ho : s.willOverflow = false)
    (hi : s.beginCycle.op = some i) : step s = exec i s.beginCycle := by
  simp [step, hv, ho, hi]

/-- With an unbounded INQ no arrival overflows it. -/
theorem State.willOverflow_unbounded (s : State) (h : s.inqDepth = none) : s.willOverflow = false := by
  simp [State.willOverflow, State.overflows, h]

end Sys2Proof.Machine
end

