-- ==== Sys2Proof/Tests/Slice0.lean ====
section
/-! SUPPORT. Tests: well-formedness refuses what it must, words written out from R89 decode to their operations, single
cycles of the spec's derived vectors V1 to V34h (95_test_vectors.md sections B1 to B3, the source of every expected
value here), and for each obligation with hypotheses a named theorem that meets them. -/

namespace Sys2Proof.Tests

open Sys2Proof.Machine

/-- CFG-A of 95_test_vectors.md. -/
def cfgA : Cfg := ⟨2, 2, 0xA5, 0x5A, .linear, 0, 14⟩

/-- CFG-B of 95_test_vectors.md. -/
def cfgB : Cfg := ⟨4, 3, 0xA5, 0x5A, .serpentine, 2, 36⟩

/-- CFG-1 of 95_test_vectors.md. -/
def cfg1 : Cfg := ⟨1, 1, 0xA5, 0x5A, .linear, 1, 4⟩

/-- A device wired otherwise: 2 x 1, the two pixels exchanged (R170). -/
def cfgOwn : Cfg := ⟨2, 1, 0xA5, 0x5A, .own [1, 0], 0, 6⟩

/-- A state in a phase, the rest as after power-up. -/
def at_ (c : Cfg) (p : Phase) : State := { State.powerUp c with phase := p }

/-- The state after a step, if there is one. -/
def next? (o : Out) : Option State :=
  match o with
  | .next s => some s
  | .fault _ => none
  | .refused _ => none

/-- A cycle with `rst_i = 1`. -/
def rstCycle : CycleIn := { CycleIn.idle with rst := true }

/-- A cycle with `pres_done_i = 1`. -/
def doneCycle : CycleIn := { CycleIn.idle with done := true }

/-! ## Well-formedness: one ill-formed term for each check (R10, R91, R94) -/

theorem test_valid_configurations :
    (cfgA.valid && cfgB.valid && cfg1.valid && cfgOwn.valid && Config.build.valid) = true := by decide
theorem test_width_zero_refused : { cfgA with width := 0 }.valid = false := by decide
theorem test_height_zero_refused : { cfgA with height := 0 }.valid = false := by decide
theorem test_equal_markers_refused : { cfgA with marker2 := 0xA5 }.valid = false := by decide
theorem test_region_too_wide_refused : { cfgA with corrN := 3 }.valid = false := by decide
theorem test_timeout_too_short_refused : { cfgA with timeoutCycles := 11 }.valid = false := by decide
theorem test_table_too_short_refused : { cfgOwn with addrScheme := .own [1] }.valid = false := by decide
theorem test_table_out_of_range_refused : { cfgOwn with addrScheme := .own [1, 2] }.valid = false := by
  decide
theorem test_table_not_injective_refused : { cfgOwn with addrScheme := .own [1, 1] }.valid = false := by
  decide
theorem test_both_marker_bits_ill_formed :
    Sel.wellFormed ⟨false, 1, true, true, true, false, false, false, false⟩ = false := by decide
theorem test_marker_bit_without_byte_ill_formed :
    Sel.wellFormed ⟨false, 0, false, true, false, false, false, false, false⟩ = false := by decide
theorem test_exp_outside_read_ill_formed :
    Sel.wellFormed ⟨false, 3, false, false, false, true, false, false, false⟩ = false := by decide
theorem test_lst_in_present_ill_formed :
    Sel.wellFormed ⟨false, 5, false, false, false, false, true, false, false⟩ = false := by decide
theorem test_reserved_selector_refused : Channel.ofCode 3 = none := by decide
theorem test_short_frame_item_ill_formed : (Item.frame []).wellFormed cfg1 = false := by decide
theorem test_whole_frame_truncated_ill_formed :
    (Item.trunc 3 [⟨1, 2, 3⟩]).wellFormed cfg1 = false := by decide
theorem test_junk_with_marker_ill_formed : (Item.junk [0, 0xA5]).wellFormed cfg1 = false := by decide

/-! ## Decoding: words written out bit by bit as `rst PHASE v m1 m2 exp lst done cz` (R87, R89) -/

theorem test_decode_reset : decodeTableWord 16 0b1_010_1_0_0_0_0_0_1 = some .reset := by decide
theorem test_decode_s1Wait : decodeTableWord 16 0b0_000_0_0_0_0_0_0_0 = some .s1Wait := by decide
theorem test_decode_s1Miss : decodeTableWord 16 0b0_000_1_0_1_0_0_0_0 = some .s1Miss := by decide
theorem test_decode_s1Hit : decodeTableWord 16 0b0_000_1_1_0_0_0_0_0 = some .s1Hit := by decide
theorem test_decode_s2Wait : decodeTableWord 16 0b0_001_0_0_0_0_0_0_0 = some .s2Wait := by decide
theorem test_decode_s2Again : decodeTableWord 16 0b0_001_1_1_0_0_0_0_0 = some .s2Again := by decide
theorem test_decode_s2Start : decodeTableWord 16 0b0_001_1_0_1_0_0_0_0 = some .s2Start := by decide
theorem test_decode_s2Miss : decodeTableWord 16 0b0_001_1_0_0_0_0_0_0 = some .s2Miss := by decide
theorem test_decode_rpWait : decodeTableWord 16 0b0_010_0_0_0_0_0_0_0 = some .rpWait := by decide
theorem test_decode_rpStore : decodeTableWord 16 0b0_010_1_1_0_0_0_0_0 = some .rpStore := by decide
theorem test_decode_rpLast : decodeTableWord 16 0b0_010_1_0_0_0_1_0_0 = some .rpLast := by decide
theorem test_decode_rpTimeout : decodeTableWord 16 0b0_010_1_0_0_1_1_0_0 = some .rpTimeout := by decide
theorem test_decode_illRecover : decodeTableWord 16 0b0_111_0_0_0_0_0_0_0 = some .illRecover := by decide
theorem test_decode_mwWrpix : decodeTableWord 16 0b0_011_1_1_0_0_0_0_0 = some .mwWrpix := by decide
theorem test_decode_mwWrlast : decodeTableWord 16 0b0_011_0_0_0_0_1_0_1 = some .mwWrlast := by decide
theorem test_decode_mwSwap : decodeTableWord 16 0b0_100_0_0_0_0_0_0_0 = some .mwSwap := by decide
theorem test_decode_mwSwlast : decodeTableWord 16 0b0_100_1_1_0_0_1_0_0 = some .mwSwlast := by decide
theorem test_decode_mwHold : decodeTableWord 16 0b0_101_1_1_0_0_0_0_0 = some .mwHold := by decide
theorem test_decode_mwDone : decodeTableWord 16 0b0_101_0_0_0_0_0_1_0 = some .mwDone := by decide
theorem test_decode_bit_eleven_refused : decode 16 0x800 = .error .bitAboveTen := by rfl
theorem test_decode_short_word_refused : decode 8 0x00 = .error .fewerThanElevenBits := by rfl

/-- R20: `bitlen 0 = 1`; 35 is `100011`. -/
theorem test_bitlen : bitlen 0 = 1 ∧ bitlen 1 = 1 ∧ bitlen 2 = 2 ∧ bitlen 35 = 6 := by decide

/-! ## One cycle each (V1 to V31) -/

/-- V3: a byte equal to `MARKER2` is a miss in SEEK1. -/
theorem test_s1Miss_marker2 :
    ((next? (step { at_ cfgA .seek1 with inq := [0x5A, 7] })).map fun t => (t.phase, t.inq)) =
      some (.seek1, [7]) := by decide
/-- V4. -/
theorem test_s1Hit :
    ((next? (step { at_ cfgA .seek1 with inq := [0xA5] })).map fun t => (t.phase, t.inq)) =
      some (.seek2, []) := by decide
/-- V1, V5: nothing but the cycle passes. -/
theorem test_waits :
    ((next? (step (at_ cfgA .seek1))).map fun t => t.phase) = some .seek1 ∧
      ((next? (step (at_ cfgA .seek2))).map fun t => t.phase) = some .seek2 := by decide
/-- V6. -/
theorem test_s2Again :
    ((next? (step { at_ cfgA .seek2 with inq := [0xA5, 0x5A] })).map fun t => (t.phase, t.inq)) =
      some (.seek2, [0x5A]) := by decide
/-- V7. -/
theorem test_s2Start :
    ((next? (step { at_ cfgA .seek2 with inq := [0x5A], rxcnt := 3, tmr := 9 })).map fun t =>
      (t.phase, t.rxcnt, t.tmr)) = some (.read, 0, 0) := by decide
/-- V8. -/
theorem test_s2Miss :
    ((next? (step { at_ cfgA .seek2 with inq := [0x00] })).map fun t => (t.phase, t.inq)) =
      some (.seek1, []) := by decide
/-- V9. -/
theorem test_rpWait :
    ((next? (step { at_ cfgA .read with rxcnt := 5, tmr := 7 })).map fun t => (t.phase, t.rxcnt, t.tmr)) =
      some (.read, 5, 8) := by decide
/-- V10: a marker byte in the payload is stored, not interpreted. -/
theorem test_rpStore :
    ((next? (step { at_ cfgA .read with rxcnt := 3, tmr := 3, inq := [0xA5] })).map fun t =>
      (t.phase, t.rxcnt, t.tmr, Mem.read t.pbuf 3, Mem.read t.pbuf 2)) =
      some (.read, 4, 4, some 0xA5, none) := by decide
/-- V12: the last byte at `TMR = TIMEOUT_CYCLES - 1` is in time. -/
theorem test_rpLast :
    ((next? (step { at_ cfgA .read with rxcnt := 11, tmr := 13, inq := [0xFF] })).map fun t =>
      (t.phase, t.rxcnt, t.tmr, t.px, Mem.read t.pbuf 11)) =
      some (.apply, 0, 0, 0, some 0xFF) := by decide
/-- V14: expiry beats the byte that would have completed the frame; the byte is flushed. -/
theorem test_rpTimeout_beats_last_byte :
    ((next? (step { at_ cfgA .read with rxcnt := 11, tmr := 14, inq := [0xFF] })).map fun t =>
      (t.phase, t.rxcnt, t.tmr, t.inq, Mem.read t.pbuf 11)) =
      some (.seek1, 0, 0, [], none) := by decide
/-- R53: of the bytes of the flush cycle itself, those the environment keeps remain. -/
theorem test_rpTimeout_keeps_arrival :
    ((next? (step { at_ cfgA .read with
        tmr := 14, inq := [1]
        sched := [{ CycleIn.idle with arrivals := [⟨2, false⟩, ⟨3, true⟩] }] })).map fun t => t.inq) =
      some [3] := by decide
/-- V16: RESET in READ eats the offered byte. -/
theorem test_reset_in_read :
    ((next? (step { at_ cfgA .read with
        rxcnt := 5, tmr := 9, inq := [0x33, 0x44], sched := [rstCycle] })).map fun t =>
      (t.phase, t.rxcnt, t.tmr, t.inq)) = some (.seek1, 0, 0, [0x44]) := by decide
/-- R220: in PRESENT `rx_ready_o` is 0, so a RESET leaves INQ alone. -/
theorem test_reset_in_present :
    ((next? (step { at_ cfgA .present with inq := [0x33], sched := [rstCycle] })).map fun t =>
      (t.phase, t.inq)) = some (.seek1, [0x33]) := by decide
/-- R220, R231, D2: a RESET in the cycle of an expired READ timer neither pulses nor flushes. -/
theorem test_reset_at_expiry :
    ((next? (step { at_ cfgA .read with tmr := 14, inq := [0x33], sched := [rstCycle] })).map fun t =>
      (t.phase, t.tmr, t.inq)) = some (.seek1, 0, [0x33]) ∧
      ({ at_ cfgA .read with tmr := 14, inp := rstCycle } : State).outputs.errTrunc = false := by decide
/-- R30: 12 pixels need 4 address bits, so 16 + 8 reaches the port as 8; one pixel has 1 bit. -/
theorem test_display_address_width :
    (cfgB.dispAddrWidth, cfg1.dispAddrWidth) = (4, 1) ∧
      ({ at_ cfgB .present with inp := { CycleIn.idle with dispAddr := 24 } } : State).dispAddr = 8 := by
  decide
/-- V17: RXCNT stays. -/
theorem test_illRecover :
    ((next? (step { at_ cfgA .code6 with rxcnt := 5, inq := [9] })).map fun t =>
      (t.phase, t.rxcnt, t.inq)) = some (.seek1, 5, [9]) := by decide
/-- V19. -/
theorem test_mwWrpix :
    ((next? (step { at_ cfgB .apply with
        px := 1, py := 1, pbuf := [(15, 0x05), (16, 0x45), (17, 0x85)] })).map fun t =>
      (t.phase, t.px, t.py, t.pix)) =
      some (.apply, 2, 1, [(6, ⟨0x05, 0x45, 0x85⟩)]) := by decide
/-- V21: the end of a row that runs backwards. -/
theorem test_mwWrpix_row_wrap :
    ((next? (step { at_ cfgB .apply with
        px := 3, py := 1, pbuf := [(21, 0x07), (22, 0x47), (23, 0x87)] })).map fun t =>
      (t.px, t.py, t.pix)) = some (0, 2, [(4, ⟨0x07, 0x47, 0x87⟩)]) := by decide
/-- V23. -/
theorem test_mwWrlast_to_correct :
    ((next? (step { at_ cfgB .apply with
        px := 3, py := 2, pbuf := [(33, 0x0B), (34, 0x4B), (35, 0x8B)] })).map fun t =>
      (t.phase, t.px, t.py, t.pix)) =
      some (.correct, 0, 0, [(11, ⟨0x0B, 0x4B, 0x8B⟩)]) := by decide
/-- V24: CORRECT is skipped when `CORR_N = 0`. -/
theorem test_mwWrlast_to_present :
    ((next? (step { at_ cfgA .apply with
        px := 1, py := 1, pbuf := [(9, 0xFF), (10, 0xFF), (11, 0xFF)] })).map fun t =>
      (t.phase, t.pix)) = some (.present, [(3, ⟨0xFF, 0xFF, 0xFF⟩)]) := by decide
/-- V25. -/
theorem test_mwSwap :
    ((next? (step { at_ cfgB .correct with pix := [(8, ⟨0x0A, 0x14, 0x1E⟩)] })).map fun t =>
      (t.phase, t.px, t.pix)) = some (.correct, 1, [(8, ⟨0x14, 0x0A, 0x1E⟩)]) := by decide
/-- V26. -/
theorem test_mwSwlast :
    ((next? (step { at_ cfgB .correct with px := 1, pix := [(9, ⟨0x0A, 0x14, 0x1E⟩)] })).map fun t =>
      (t.phase, t.px, t.pix)) = some (.present, 0, [(9, ⟨0x14, 0x0A, 0x1E⟩)]) := by decide
/-- V28: the offered byte stays in INQ. -/
theorem test_mwHold :
    ((next? (step { at_ cfgB .present with inq := [0xA5] })).map fun t => (t.phase, t.inq)) =
      some (.present, [0xA5]) := by decide
/-- V29. -/
theorem test_mwDone :
    ((next? (step { at_ cfgB .present with sched := [doneCycle] })).map fun t => t.phase) =
      some .seek1 := by decide
/-- V31: display reads during PRESENT. -/
theorem test_display_read :
    (({ at_ cfgB .present with
        pix := [(4, ⟨0x07, 0x47, 0x87⟩), (8, ⟨0x14, 0x0A, 0x1E⟩)]
        inp := { CycleIn.idle with dispAddr := 8 } } : State).outputs.dispData = 0x140A1E) := by decide
/-- V10, V13, V16, V28: dispatch vectors as the spec computes them. -/
theorem test_dispatch_vectors :
    ({ at_ cfgA .read with rxcnt := 3, tmr := 3, inq := [0xA5] } : State).sel.pack = 0x161#11 ∧
      ({ at_ cfgA .read with rxcnt := 7, tmr := 14 } : State).sel.pack = 0x109#11 ∧
      ({ at_ cfgA .read with rxcnt := 5, tmr := 9, inq := [0x33], inp := rstCycle } : State).sel.pack =
        0x541#11 ∧
      ({ at_ cfgB .present with inq := [0xA5] } : State).sel.pack = 0x2E0#11 := by decide
/-- R72: an arrival into a full INQ ends the run. -/
theorem test_overflow_faults :
    step { at_ cfgA .apply with
      inq := [1], inqDepth := some 1, sched := [{ CycleIn.idle with arrivals := [⟨2, false⟩] }] } =
      .fault .inqOverflow := by rfl

/-! ## The functions of the Matrix Writer (V32 to V34h) -/

theorem test_map_linear :
    ({ cfgB with addrScheme := .linear }.map 3 1, { cfgB with addrScheme := .linear }.map 0 2) = (7, 8) := by
  decide
theorem test_map_serpentine :
    (cfgB.map 3 0, cfgB.map 0 1, cfgB.map 1 1, cfgB.map 3 1, cfgB.map 0 2, cfgB.map 3 2) =
      (3, 7, 6, 4, 8, 11) := by decide
theorem test_map_own_table : (cfgOwn.map 0 0, cfgOwn.map 1 0, cfgOwn.unmap 1) = (1, 0, (0, 0)) := by decide
theorem test_region :
    (cfgB.region 0 2, cfgB.region 1 2, cfgB.region 2 2, cfgB.region 0 1, cfgA.region 0 1) =
      (true, true, false, false, false) := by decide
theorem test_lookup :
    (corrLut false).code = 0x06#6 ∧ (corrLut true).code = 0x12#6 ∧
      (corrLut true).permute ⟨0x0A, 0x14, 0x1E⟩ = ⟨0x14, 0x0A, 0x1E⟩ := by decide

/-- The stream of R114's example, with a shorter gap: `A5`, `GAP(3)`, `5A` puts the second byte in cycle 4. -/
theorem test_script_gap :
    scriptArrivals cfg1 0 [.byte 0xA5, .gap 3, .byte 0x5A] = [(0, 0xA5), (4, 0x5A)] := by decide
/-- Program P5's stream up to its first good frame. -/
theorem test_script_frames :
    scriptArrivals cfg1 0 [.trunc 1 [⟨1, 0, 0⟩], .atCycle 8, .frame [⟨7, 8, 9⟩]] =
      [(0, 0xA5), (0, 0x5A), (0, 1), (8, 0xA5), (8, 0x5A), (8, 7), (8, 8), (8, 9)] := by decide

/-! ## States that meet the hypotheses of the obligations -/

/-- Some operation or step answers a next state. -/
def isNext (o : Out) : Bool := (next? o).isSome

/-- READ on a 1 x 1 matrix, two bytes stored, the last one offered. -/
def reading : State := { at_ cfg1 .read with rxcnt := 2, tmr := 2, pbuf := [(0, 1), (1, 2)], inq := [3] }

/-- The same with an input buffer of one byte that overflows in the next cycle. -/
def overflowing : State :=
  { reading with inqDepth := some 1, sched := [{ CycleIn.idle with arrivals := [⟨9, false⟩] }] }

/-- PRESENT on a 1 x 1 matrix whose one pixel is in the Correction Region; the driver reads index 0. -/
def presenting : State :=
  { at_ cfg1 .present with pbuf := [(0, 1), (1, 2), (2, 3)], pix := [(0, ⟨2, 1, 3⟩)] }

/-- CORRECT on the 4 x 3 matrix, at the region's first column. -/
def correcting : State := { at_ cfgB .correct with pix := [(8, ⟨1, 2, 3⟩)], sched := [doneCycle] }

theorem witness_inv_reading : Inv reading where
  config := by decide
  legal := by decide
  rxcntRange := by decide
  rxcntIdle := by decide
  tmrRange := by decide
  tmrIdle := by decide
  readBound := by decide
  pxRange := by decide
  pyRange := by decide
  pxyIdle := by decide
  correctPx := by decide
  pbufForm := by decide
  pixForm := by decide
  pbufBelow := by decide
  pixBelow := by decide
  received := by decide
  complete := by decide
  applied := fun h => by cases h
  corrected := fun h => by cases h
  presented := fun h => by cases h

theorem witness_inv_presenting : Inv presenting where
  config := by decide
  legal := by decide
  rxcntRange := by decide
  rxcntIdle := by decide
  tmrRange := by decide
  tmrIdle := by decide
  readBound := by decide
  pxRange := by decide
  pyRange := by decide
  pxyIdle := by decide
  correctPx := by decide
  pbufForm := by decide
  pixForm := by decide
  pbufBelow := by decide
  pixBelow := by decide
  received := by decide
  complete := by decide
  applied := fun h => by cases h
  corrected := fun h => by cases h
  presented := fun _ x y hx hy => by
    obtain rfl : x = 0 := Nat.lt_one_iff.mp hx
    obtain rfl : y = 0 := Nat.lt_one_iff.mp hy
    rfl

theorem witness_inv_overflowing : Inv overflowing :=
  { witness_inv_reading with }

theorem witness_OperationMapPartitionsAllVectors :
    reading.op = some .rpLast ∧ isNext (exec .rpLast reading) = true := by decide
theorem witness_DecodeInvertsEncode :
    decodeSel 0x541#11 = some .reset ∧ decodeSel 0x2E0#11 = some .mwHold ∧ 11 ≤ 16 ∧ 2 ^ 11 ≤ 0x800 := by decide
theorem witness_DispatchVectorBits_ignored :
    (0x100#11 &&& 0x040#11 = 0) ∧ (0x180#11 &&& 0x380#11 ≠ 0x100#11) ∧
      (0x280#11 &&& 0x380#11 ≠ 0x100#11 ∧ 0x280#11 &&& 0x380#11 ≠ 0x180#11 ∧
        0x280#11 &&& 0x380#11 ≠ 0x200#11) := by decide
theorem witness_DispatchVectorBits_lst :
    reading.phase = .read ∧ reading.inq = 3 :: [] ∧ (at_ cfgA .apply).phase = .apply ∧
      (at_ cfg1 .correct).phase = .correct ∧ (at_ cfg1 .present).phase ≠ .read ∧
      (at_ cfg1 .present).phase ≠ .apply ∧ (at_ cfg1 .present).phase ≠ .correct := by decide
theorem witness_DispatchVectorsWellFormed : reading.cfg.valid = true := by decide
theorem witness_StepExecutesSelectedOperation :
    reading.cfg.valid = true ∧ reading.willOverflow = false := by decide
theorem witness_InvalidConfigurationRefused :
    let s := at_ { cfg1 with timeoutCycles := 2 } .seek1
    ¬ (1 ≤ s.cfg.width ∧ 1 ≤ s.cfg.height ∧ s.cfg.marker1 ≠ s.cfg.marker2 ∧
      s.cfg.corrN ≤ s.cfg.width ∧ s.cfg.dataLength ≤ s.cfg.timeoutCycles) := by decide
theorem witness_InputOverflowEndsRun :
    overflowing.cfg.valid = true ∧ overflowing.inqDepth = some 1 ∧
      (overflowing.sched.headD CycleIn.idle).arrivals ≠ [] ∧
      1 < overflowing.inq.length + (overflowing.sched.headD CycleIn.idle).arrivals.length := by decide
theorem witness_PlacedVectorIsExecuted : decodeTableWord 16 0x185 = some .mwWrlast := by decide
theorem witness_ResetOperation :
    let s := { reading with inp := rstCycle }
    let p := { presenting with inp := rstCycle }
    s.inp.rst = true ∧ s.outputs.rxReady = true ∧ p.inp.rst = true ∧ p.outputs.rxReady = false := by decide
theorem witness_ResetWithExpiredTimer :
    let s := { reading with tmr := 4, inp := rstCycle }
    s.inp.rst = true ∧ s.phase = .read ∧ s.tmr = s.cfg.timeoutCycles := by decide
theorem witness_StateAfterReset : isNext (exec .reset reading) = true := by decide
theorem witness_Seek1Operations :
    let s := at_ cfg1 .seek1
    s.inp.rst = false ∧ s.phase = .seek1 ∧ s.inq = [] ∧ { s with inq := [0x5A] }.inq = 0x5A :: [] ∧
      (0x5A : Byte) ≠ s.cfg.marker1 ∧ { s with inq := [0xA5] }.inq = s.cfg.marker1 :: [] := by decide
theorem witness_Seek2Operations :
    let s := at_ cfg1 .seek2
    s.cfg.valid = true ∧ s.inp.rst = false ∧ s.phase = .seek2 ∧ s.inq = [] ∧
      { s with inq := [0xA5] }.inq = s.cfg.marker1 :: [] := by decide
theorem witness_Seek2Operations_others :
    let s := at_ cfg1 .seek2
    { s with inq := [0x5A] }.inq = s.cfg.marker2 :: [] ∧ { s with inq := [0] }.inq = 0 :: [] ∧
      (0 : Byte) ≠ s.cfg.marker1 ∧ (0 : Byte) ≠ s.cfg.marker2 := by decide
theorem witness_ReadWaitOperation :
    let s := { reading with inq := [], tmr := 3 }
    s.inp.rst = false ∧ s.phase = .read ∧ s.tmr ≠ s.cfg.timeoutCycles ∧ s.inq = [] := by decide
theorem witness_ReadStoreOperation :
    let s := { reading with rxcnt := 1 }
    s.inp.rst = false ∧ s.phase = .read ∧ s.tmr ≠ s.cfg.timeoutCycles ∧ s.inq = 3 :: [] ∧
      s.rxcnt < s.cfg.dataLength ∧ s.rxcnt + 1 ≠ s.cfg.dataLength := by decide
theorem witness_ReadLastOperation :
    reading.inp.rst = false ∧ reading.phase = .read ∧ reading.tmr ≠ reading.cfg.timeoutCycles ∧
      reading.inq = 3 :: [] ∧ reading.rxcnt + 1 = reading.cfg.dataLength := by decide
theorem witness_ReadTimeoutOperation :
    let s := { reading with tmr := 4 }
    s.inp.rst = false ∧ s.phase = .read ∧ s.tmr = s.cfg.timeoutCycles := by decide
theorem witness_IllegalPhaseRecovers :
    (at_ cfg1 .code6).inp.rst = false ∧ (at_ cfg1 .code6).phase = .code6 ∧
      (at_ cfg1 .code7).phase = .code7 := by decide
theorem witness_WritePixelOperation :
    let s := { at_ cfgB .apply with px := 3, py := 1 }
    s.cfg.valid = true ∧ s.inp.rst = false ∧ s.phase = .apply ∧ s.px < s.cfg.width ∧ s.py < s.cfg.height ∧
      ¬ (s.px + 1 = s.cfg.width ∧ s.py + 1 = s.cfg.height) := by decide
theorem witness_WriteLastPixelOperation :
    let s := { at_ cfgB .apply with px := 3, py := 2 }
    s.cfg.valid = true ∧ s.inp.rst = false ∧ s.phase = .apply ∧ s.px + 1 = s.cfg.width ∧
      s.py + 1 = s.cfg.height := by decide
theorem witness_SwapOperation :
    correcting.cfg.valid = true ∧ correcting.inp.rst = false ∧ correcting.phase = .correct ∧
      correcting.px < correcting.cfg.corrN ∧ correcting.px + 1 ≠ correcting.cfg.corrN := by decide
theorem witness_SwapLastOperation :
    let s := { correcting with px := 1 }
    s.cfg.valid = true ∧ s.inp.rst = false ∧ s.phase = .correct ∧ s.px + 1 = s.cfg.corrN := by decide
theorem witness_PresentOperations :
    presenting.inp.rst = false ∧ presenting.phase = .present ∧ presenting.inp.done = false ∧
      { presenting with inp := doneCycle }.inp.done = true := by decide
theorem witness_OutputFunctions :
    let s := { at_ cfgB .present with inp := { CycleIn.idle with dispAddr := 11 } }
    11 = s.inp.dispAddr % 2 ^ max 1 (bitlen (s.cfg.numPixels - 1)) ∧ s.phase = .present ∧ 11 < s.cfg.numPixels ∧
      { doneCycle with dispAddr := 11 }.dispAddr = s.inp.dispAddr ∧ doneCycle.rst = s.inp.rst := by decide
theorem witness_InputQueueHandshake :
    let f := { reading with tmr := 4 }
    isNext (step f) = true ∧ f.beginCycle.outputs.rxFlush = true ∧ isNext (step reading) = true ∧
      reading.beginCycle.outputs.rxReady = true ∧ isNext (step presenting) = true := by decide
theorem witness_NoByteTakenWhileWriterRuns :
    isNext (step { at_ cfgA .apply with inq := [7] }) = true ∧ isNext (step correcting) = true ∧
      isNext (step presenting) = true := by decide
theorem witness_OnlyTruncationIsSignalled :
    isNext (exec .rpTimeout { reading with tmr := 4 }) = true := by decide
theorem witness_EventPriority :
    { reading with inp := rstCycle }.inp.rst = true ∧ reading.inp.rst = false ∧
      { reading with tmr := 4 }.tmr = cfg1.timeoutCycles ∧ reading.outputs.rxReady = true ∧
      reading.inq = 3 :: [] := by decide
theorem witness_ByteClasses : cfg1.valid = true := by decide
theorem witness_CycleAgreesWithPureDecoder :
    reading.cfg.valid = true ∧ reading.inp.rst = false ∧ reading.outputs.rxReady = true ∧
      reading.rxcnt < reading.cfg.dataLength ∧ reading.inq = 3 :: [] := by decide
theorem witness_WrittenOnlyByListedOperations :
    isNext (exec .rpLast reading) = true ∧ reading.op = some .rpLast := by decide
theorem witness_ConfigurationNeverChanges : isNext (step reading) = true := by decide
theorem witness_PixelsChangeOnlyInApplyAndCorrect :
    isNext (step reading) = true ∧ (reading.sched.headD CycleIn.idle).rst = false ∧
      reading.phase ≠ .apply ∧ reading.phase ≠ .correct := by decide
theorem witness_ReadEndsOnlyByCountTimerOrReset :
    reading.phase = .read ∧ reading.op = some .rpLast ∧
      ((next? (exec .rpLast reading)).map fun t => t.phase) = some .apply := by decide
theorem witness_ApplyEnteredOnlyWithWholePayload :
    Inv reading ∧ reading.phase ≠ .apply ∧
      ((next? (step reading)).map fun t => t.phase) = some .apply :=
  ⟨witness_inv_reading, by decide, by decide⟩
theorem witness_StoredBytesNeverSteer : isNext (step reading) = true := by decide
theorem witness_PowerUpMeetsInvariant : cfg1.valid = true ∧ cfgOwn.valid = true := by decide
theorem witness_StepKeepsInvariant :
    (Inv reading ∧ isNext (step reading) = true) ∧ Inv presenting ∧ isNext (step presenting) = true :=
  ⟨⟨witness_inv_reading, by decide⟩, witness_inv_presenting, by decide⟩
theorem witness_OnlyInputOverflowStops :
    (Inv reading ∧ reading.willOverflow = false) ∧ Inv overflowing ∧ overflowing.willOverflow = true :=
  ⟨⟨witness_inv_reading, by decide⟩, witness_inv_overflowing, by decide⟩
theorem witness_CountersFitTheirRegisters : Inv reading := witness_inv_reading
theorem witness_DisplayReadsPresentedImage :
    Inv presenting ∧ presenting.phase = .present ∧ 0 < presenting.cfg.width ∧ 0 < presenting.cfg.height ∧
      presenting.inp.dispAddr = presenting.cfg.map 0 0 :=
  ⟨witness_inv_presenting, by decide, by decide, by decide, by decide⟩
theorem witness_MapIsBijection :
    cfgB.valid = true ∧ 3 < cfgB.width ∧ 2 < cfgB.height ∧ 11 < cfgB.numPixels ∧ cfgOwn.valid = true := by
  decide
theorem witness_SchemeFormulas :
    cfgA.addrScheme = .linear ∧ cfgB.addrScheme = .serpentine ∧ 2 % 2 = 0 ∧ 1 % 2 = 1 ∧ 3 < cfgB.width := by
  decide
theorem witness_SchemesAgree :
    (3 < cfgB.width ∧ 2 < cfgB.height ∧ 2 % 2 = 0) ∧ (1 < cfgOwn.width ∧ 0 < cfgOwn.height ∧ cfgOwn.height = 1) ∧
      (0 < { cfgB with width := 1 }.width ∧ 1 < cfgB.height ∧ { cfgB with width := 1 }.width = 1) := by decide
theorem witness_PayloadOffsetsDecompose :
    cfgB.valid = true ∧ 35 < cfgB.dataLength ∧ 3 < cfgB.width ∧ 2 < cfgB.height ∧ 2 < 3 := by decide
theorem witness_CorrectionLookup : cfgB.valid = true := by decide
theorem witness_FrameBytesOnTheWire :
    (Item.frame [⟨7, 8, 9⟩]).wellFormed cfg1 = true ∧ [(⟨7, 8, 9⟩ : Pixel)][0]? = some ⟨7, 8, 9⟩ := by decide
theorem witness_JunkIsConsumedSilently :
    let s := { at_ cfg1 .seek1 with inq := [0x5A, 0, 0xA5], sched := [doneCycle] }
    s.cfg.valid = true ∧ s.inqDepth = none ∧ s.phase = .seek1 ∧ s.inq = [0x5A, 0] ++ [0xA5] ∧
      (∀ b ∈ ([0x5A, 0] : List Byte), b ≠ s.cfg.marker1) ∧ s.noReset 2 := by
  simp only [State.noReset]
  decide
theorem witness_CompleteReception :
    let s := { at_ cfg1 .read with inq := [1, 2, 3] }
    (s.phase = .read ∧ s.rxcnt = 0) ∧
      (∀ m, m < 3 → ∃ u, run m s = .next u ∧ u.phase = .read) ∧
      ∃ t, run 3 s = .next t ∧ t.phase = .apply := by
  refine ⟨by decide, fun m h => ?_, _, rfl, rfl⟩
  obtain rfl | rfl | rfl : m = 0 ∨ m = 1 ∨ m = 2 := by omega
  · exact ⟨_, rfl, rfl⟩
  · exact ⟨_, rfl, rfl⟩
  · exact ⟨_, rfl, rfl⟩
theorem witness_SilenceEndsInTruncation :
    let s := { reading with inq := [], sched := [doneCycle] }
    s.cfg.valid = true ∧ s.phase = .read ∧ s.tmr ≤ s.cfg.timeoutCycles ∧ s.inq = [] ∧
      s.silent (s.cfg.timeoutCycles - s.tmr + 1) ∧ s.noReset (s.cfg.timeoutCycles - s.tmr + 1) := by
  simp only [State.noReset, State.silent]
  decide
theorem witness_ApplyWritesWholeImage :
    let s := { at_ cfgB .apply with sched := [doneCycle] }
    s.cfg.valid = true ∧ s.inqDepth = none ∧ s.phase = .apply ∧ s.px = 0 ∧ s.py = 0 ∧
      12 ≤ s.cfg.numPixels ∧ s.noReset 12 := by
  simp only [State.noReset]
  decide
theorem witness_CorrectSwapsRegionOnce :
    (correcting.cfg.valid = true ∧ correcting.inqDepth = none ∧ correcting.phase = .correct ∧
      correcting.px = 0 ∧ 1 ≤ correcting.cfg.corrN ∧ 2 ≤ correcting.cfg.corrN ∧ correcting.noReset 2) ∧
      (cfgA.corrN = 0 ∧ (at_ cfgA .apply).phase ≠ .correct ∧ isNext (step (at_ cfgA .apply)) = true) := by
  simp only [State.noReset]
  decide
theorem witness_ImageDependsOnPayloadOnly :
    let s := { at_ cfg1 .apply with pbuf := [(0, 1), (1, 2), (2, 3)] }
    let s' := { s with pix := [(0, ⟨9, 9, 9⟩)], sched := [doneCycle] }
    s.cfg.valid = true ∧ s'.cfg = s.cfg ∧ (s.inqDepth = none ∧ s'.inqDepth = none) ∧
      (s.phase = .apply ∧ s'.phase = .apply) ∧ (s.px = 0 ∧ s.py = 0 ∧ s'.px = 0 ∧ s'.py = 0) ∧
      (∀ o, o < s.cfg.dataLength → s'.pbufByte o = s.pbufByte o) ∧
      s.noReset (s.cfg.numPixels + s.cfg.corrN) ∧ s'.noReset (s.cfg.numPixels + s.cfg.corrN) := by
  simp only [State.noReset]
  exact ⟨by decide, by decide, by decide, by decide, by decide, fun _ _ => rfl, by decide, by decide⟩
theorem witness_FrameIsPresented :
    let s := { at_ cfg1 .seek1 with inq := [0xA5, 0xA5, 0x5A, 1, 2, 3, 0xFF], sched := [doneCycle] }
    s.cfg.valid = true ∧ s.inqDepth = none ∧ s.phase = .seek1 ∧
      ([1, 2, 3] : List Byte).length = s.cfg.dataLength ∧
      s.inq = List.replicate 1 s.cfg.marker1 ++ s.cfg.frame [1, 2, 3] ++ [0xFF] ∧
      s.noReset (1 + 2 + s.cfg.dataLength + s.cfg.numPixels + s.cfg.corrN) := by
  simp only [State.noReset]
  decide
theorem witness_PresentWaitsForDriver :
    let s := { presenting with sched := [CycleIn.idle, CycleIn.idle, doneCycle] }
    s.cfg.valid = true ∧ s.inqDepth = none ∧ s.phase = .present ∧ s.noReset 2 ∧
      (∀ c ∈ s.sched.take 2, c.done = false) := by
  simp only [State.noReset]
  decide
theorem witness_EventLevelAdmitsCyclesWithoutReset :
    Inv reading ∧ (reading.sched.headD CycleIn.idle).rst = false ∧ isNext (step reading) = true :=
  ⟨witness_inv_reading, by decide, by decide⟩

end Sys2Proof.Tests
end

/-! PROOFS of the family 00_scope: what no operation writes, when a step is refused, and what one step runs. -/

namespace Sys2Proof.Machine

/-! ### What no operation writes -/

/-- The frame common to all operations: the configuration (R8, R27) and the environment's part of the state, INQ itself
excepted, are left as they were. -/
theorem exec_frame {i : Instr} {s t : State} (h : exec i s = .next t) :
    t.cfg = s.cfg ∧ t.inqDepth = s.inqDepth ∧ t.inp = s.inp ∧ t.sched = s.sched ∧ t.cycle = s.cycle := by
  cases i with
  | reset => simp [execReset_next h]
  | s1Wait => simp [execS1Wait_next h]
  | s1Miss => obtain ⟨_, _, -, rfl⟩ := execS1Miss_next h; simp
  | s1Hit => obtain ⟨_, _, -, rfl⟩ := execS1Hit_next h; simp
  | s2Wait => simp [execS2Wait_next h]
  | s2Again => obtain ⟨_, _, -, rfl⟩ := execS2Again_next h; simp
  | s2Start => obtain ⟨_, _, -, rfl⟩ := execS2Start_next h; simp
  | s2Miss => obtain ⟨_, _, -, rfl⟩ := execS2Miss_next h; simp
  | rpWait => simp [execRpWait_next h]
  | rpStore => obtain ⟨_, _, -, -, rfl⟩ := execRpStore_next h; simp
  | rpLast => obtain ⟨_, _, -, -, rfl⟩ := execRpLast_next h; simp
  | rpTimeout => simp [execRpTimeout_next h]
  | illRecover => simp [execIllRecover_next h]
  | mwWrpix => obtain ⟨-, -, rfl⟩ := execMwWrpix_next h; simp
  | mwWrlast => obtain ⟨-, -, rfl⟩ := execMwWrlast_next h; simp
  | mwSwap => obtain ⟨-, rfl⟩ := execMwSwap_next h; simp
  | mwSwlast => obtain ⟨-, rfl⟩ := execMwSwlast_next h; simp
  | mwHold => simp [execMwHold_next h]
  | mwDone => simp [execMwDone_next h]

theorem exec_cfg {i : Instr} {s t : State} (h : exec i s = .next t) : t.cfg = s.cfg :=
  (exec_frame h).1

theorem step_cfg {s t : State} (h : step s = .next t) : t.cfg = s.cfg := by
  obtain ⟨-, -, hexec⟩ := step_next h
  exact (exec_cfg hexec).trans s.beginCycle_cfg

/-- Settles O34: the operation of the cycle keeps CFG, and so does the start of the cycle. -/
theorem configurationNeverChanges : Obligations.ConfigurationNeverChanges :=
  fun _ _ h => step_cfg h

/-! ### The step -/

/-- The start of a cycle as one record update. -/
theorem State.beginCycle_eq (s : State) :
    s.beginCycle =
      { s with
        inp := s.sched.headD CycleIn.idle
        sched := s.sched.tail
        inq := s.inq ++ (s.sched.headD CycleIn.idle).arrivals.map fun a => a.byte
        cycle := s.cycle + 1 } := rfl

/-- Settles O7: the vector decodes to its operation in words (`State.op_eq`), and an admitted step is that
operation's meaning (`step_of_op`). -/
theorem stepExecutesSelectedOperation : Obligations.StepExecutesSelectedOperation := by
  intro s hvalid hfits
  have hop : s.beginCycle.op = some s.beginCycle.sel.operation := s.beginCycle.op_eq
  exact ⟨s.beginCycle.sel.operation, hop, step_of_op hvalid hfits hop, s.beginCycle_eq⟩

/-- U7: a record that is no configuration is refused, whatever else the state holds. -/
theorem step_of_invalid {s : State} (h : ¬ s.cfg.valid = true) : step s = .refused .badConfig :=
  if_neg h

/-- Settles O8: the constraints of R10 are among what `Cfg.valid` asks for (`Cfg.valid_iff`). -/
theorem invalidConfigurationRefused : Obligations.InvalidConfigurationRefused := by
  intro s hbroken
  refine step_of_invalid fun hvalid => hbroken ?_
  obtain ⟨hwidth, hheight, hmarkers, hcorr, htimeout, -⟩ := s.cfg.valid_iff.1 hvalid
  exact ⟨hwidth, hheight, hmarkers, hcorr, htimeout⟩

end Sys2Proof.Machine

/-! PROOFS of the family 10_state: the invariant of R32, what writes each register, and the outputs. -/

namespace Sys2Proof

/-! ### Logical coordinates and physical indices -/

theorem Cfg.pixelNumber_lt {c : Cfg} {x y : Nat} (hx : x < c.width) (hy : y < c.height) :
    c.pixelNumber x y < c.numPixels :=
  calc y * c.width + x < y * c.width + c.width := by omega
    _ = (y + 1) * c.width := (Nat.succ_mul ..).symm
    _ ≤ c.height * c.width := Nat.mul_le_mul_right _ hy
    _ = c.width * c.height := Nat.mul_comm ..

/-- R54: within a row's width, the payload pixel number determines the coordinate. -/
theorem Cfg.pixelNumber_inj {c : Cfg} {x y x' y' : Nat} (hx : x < c.width) (hx' : x' < c.width)
    (h : c.pixelNumber x y = c.pixelNumber x' y') : x = x' ∧ y = y' := by
  have hcolumn : ∀ {a b : Nat}, a < c.width → c.pixelNumber a b % c.width = a := fun ha => by
    simp [Cfg.pixelNumber, Nat.mod_eq_of_lt ha]
  have hx_eq : x = x' := by rw [← hcolumn (b := y) hx, h, hcolumn hx']
  subst hx_eq
  exact ⟨rfl, Nat.eq_of_mul_eq_mul_right (Nat.zero_lt_of_lt hx) (Nat.add_right_cancel h)⟩

/-- R170: no two logical coordinates share a physical index. -/
theorem Cfg.map_inj {c : Cfg} (hv : c.valid = true) {x y x' y' : Nat} (hx : x < c.width) (hy : y < c.height)
    (hx' : x' < c.width) (hy' : y' < c.height) (h : c.map x y = c.map x' y') : x = x' ∧ y = y' := by
  have hscheme := Cfg.valid.scheme hv
  unfold Cfg.map at h
  cases hs : c.addrScheme with
  | linear =>
    rw [hs] at h
    exact Cfg.pixelNumber_inj hx hx' h
  | serpentine =>
    rw [hs] at h
    have hrow : ∀ a b, (if b % 2 = 0 then b * c.width + a else b * c.width + (c.width - 1 - a)) =
        c.pixelNumber (if b % 2 = 0 then a else c.width - 1 - a) b := fun a b => by
      split <;> rfl
    simp only [hrow] at h
    obtain ⟨hcolumn, rfl⟩ := Cfg.pixelNumber_inj (by split <;> omega) (by split <;> omega) h
    refine ⟨?_, rfl⟩
    split at hcolumn <;> omega
  | own table =>
    rw [hs] at h hscheme
    obtain ⟨hlength, -, hnodup⟩ := (AddrScheme.bijective_own _ _).1 hscheme
    have hk : c.pixelNumber x y < table.length := hlength ▸ Cfg.pixelNumber_lt hx hy
    have hk' : c.pixelNumber x' y' < table.length := hlength ▸ Cfg.pixelNumber_lt hx' hy'
    have hentry : table[c.pixelNumber x y] = table[c.pixelNumber x' y'] := by
      rwa [← List.getD_eq_getElem table c.numPixels hk, ← List.getD_eq_getElem table c.numPixels hk']
    exact Cfg.pixelNumber_inj hx hx' ((hnodup.getElem_inj_iff).1 hentry)

/-- R141: in the order of the payload, the pixel after the last of a row is the first of the next row. -/
theorem Cfg.pixelNumber_advance (c : Cfg) (x y : Nat) :
    c.pixelNumber (if x + 1 = c.width then 0 else x + 1) (if x + 1 = c.width then y + 1 else y) =
      c.pixelNumber x y + 1 := by
  unfold Cfg.pixelNumber
  split
  · next hlast =>
    rw [← hlast]
    ring
  · rfl

/-- R9, R54: the last logical coordinate is the last payload pixel. -/
theorem Cfg.pixelNumber_last {c : Cfg} (hv : c.valid = true) :
    c.pixelNumber (c.width - 1) (c.height - 1) = c.numPixels - 1 := by
  obtain ⟨w, hw⟩ := Nat.exists_eq_add_of_le' (Cfg.valid.width_pos hv)
  obtain ⟨h, hh⟩ := Nat.exists_eq_add_of_le' (Cfg.valid.height_pos hv)
  simp only [Cfg.pixelNumber, Cfg.numPixels, hw, hh, Nat.add_sub_cancel]
  rw [Nat.sub_eq_of_eq_add]
  ring

theorem LutEntry.permute_corrLut_false (t : Pixel) : (corrLut false).permute t = t := rfl

namespace Machine

/-! ### The invariant, PHASE by PHASE -/

/-- The part of the invariant that speaks of no register: a valid configuration (R10), and both memories in canonical
form and within their address ranges (R54, R55). -/
structure StorageForm (c : Cfg) (pbuf : Mem Byte) (pix : Mem Pixel) : Prop where
  config    : c.valid = true
  pbufForm  : Mem.wf pbuf = true
  pixForm   : Mem.wf pix = true
  pbufBelow : Mem.below pbuf c.dataLength = true
  pixBelow  : Mem.below pix c.numPixels = true

theorem StorageForm.empty {c : Cfg} (hv : c.valid = true) : StorageForm c [] [] :=
  ⟨hv, Mem.wf_nil, Mem.wf_nil, Mem.below_nil _, Mem.below_nil _⟩

theorem StorageForm.write_pbuf {c : Cfg} {pbuf : Mem Byte} {pix : Mem Pixel} (h : StorageForm c pbuf pix)
    {o : Nat} (ho : o < c.dataLength) (b : Byte) : StorageForm c (Mem.write pbuf o b) pix :=
  { h with
    pbufForm := Mem.wf_write _ _ _ h.pbufForm
    pbufBelow := Mem.below_write _ _ _ _ h.pbufBelow ho }

theorem StorageForm.write_pix {c : Cfg} {pbuf : Mem Byte} {pix : Mem Pixel} (h : StorageForm c pbuf pix)
    {i : Nat} (hi : i < c.numPixels) (p : Pixel) : StorageForm c pbuf (Mem.write pix i p) :=
  { h with
    pixForm := Mem.wf_write _ _ _ h.pixForm
    pixBelow := Mem.below_write _ _ _ _ h.pixBelow hi }

/-- The four counters are 0: R32 (b) to (d) in SEEK1, SEEK2 and PRESENT. -/
def State.AtRest (s : State) : Prop := s.rxcnt = 0 ∧ s.tmr = 0 ∧ s.px = 0 ∧ s.py = 0

/-- R32 (f): every payload byte stands in PBUF. -/
def State.HoldsPayload (s : State) : Prop :=
  ∀ o, o < s.cfg.dataLength → Mem.read s.pbuf o ≠ none

/-- PIX holds `f x y` at every logical coordinate `(x, y)`. -/
def State.Shows (s : State) (f : Nat → Nat → Pixel) : Prop :=
  ∀ x y, x < s.cfg.width → y < s.cfg.height → Mem.read s.pix (s.cfg.map x y) = some (f x y)

/-- The image of CORRECT with the columns below `n` of the last row exchanged (R148). -/
def State.correctedBelow (s : State) (n x y : Nat) : Pixel :=
  (corrLut (decide (y + 1 = s.cfg.height ∧ x < n))).permute (s.payloadTriple x y)

/-- Before the first swap the image is the payload's. -/
theorem State.correctedBelow_zero (s : State) (x y : Nat) : s.correctedBelow 0 x y = s.payloadTriple x y := by
  simp [State.correctedBelow, LutEntry.permute_corrLut_false]

/-- After the last swap the image is the one to present (R149). -/
theorem State.correctedBelow_corrN (s : State) (x y : Nat) :
    s.correctedBelow s.cfg.corrN x y = (corrLut (s.cfg.region x y)).permute (s.payloadTriple x y) := by
  rw [State.correctedBelow, Cfg.region, Bool.decide_and]

theorem Inv.storage {s : State} (h : Inv s) : StorageForm s.cfg s.pbuf s.pix :=
  ⟨h.config, h.pbufForm, h.pixForm, h.pbufBelow, h.pixBelow⟩

theorem Inv.atRest {s : State} (h : Inv s) (hread : s.phase ≠ .read) (happly : s.phase ≠ .apply)
    (hcorrect : s.phase ≠ .correct) : s.AtRest :=
  ⟨h.rxcntIdle hread, h.tmrIdle hread, h.pxyIdle happly hcorrect⟩

section
variable {s : State} (hstorage : StorageForm s.cfg s.pbuf s.pix)
include hstorage

/-- With the counters at rest, only PRESENT asks more: the payload in PBUF and the presented image in PIX. -/
theorem inv_of_atRest (hphase : s.phase = .seek1 ∨ s.phase = .seek2 ∨ s.phase = .present) (hrest : s.AtRest)
    (hpresent : s.phase = .present → s.HoldsPayload ∧ s.Shows (s.correctedBelow s.cfg.corrN)) : Inv s := by
  obtain ⟨hrxcnt, htmr, hpx, hpy⟩ := hrest
  have hpixels := Cfg.valid.numPixels_pos hstorage.config
  have hdata := s.cfg.dataLength_eq
  have hwidth := Cfg.valid.width_pos hstorage.config
  have hheight := Cfg.valid.height_pos hstorage.config
  have happly : s.phase ≠ .apply := by rcases hphase with h | h | h <;> simp [h]
  have hcorrect : s.phase ≠ .correct := by rcases hphase with h | h | h <;> simp [h]
  exact
    { hstorage with
      legal := by rcases hphase with h | h | h <;> simp [h, Phase.legal]
      rxcntRange := by omega
      rxcntIdle := fun _ => hrxcnt
      tmrRange := by omega
      tmrIdle := fun _ => htmr
      readBound := by omega
      pxRange := by omega
      pyRange := by omega
      pxyIdle := fun _ _ => ⟨hpx, hpy⟩
      correctPx := fun h => absurd h hcorrect
      received := by omega
      complete := fun h => (hpresent ((h.resolve_left happly).resolve_left hcorrect)).1
      applied := fun h => absurd h happly
      corrected := fun h => absurd h hcorrect
      presented := fun h x y hx hy => by rw [← s.correctedBelow_corrN]; exact (hpresent h).2 x y hx hy }

theorem inv_of_seek (hphase : s.phase = .seek1 ∨ s.phase = .seek2) (hrest : s.AtRest) : Inv s :=
  inv_of_atRest hstorage (hphase.imp_right .inl) hrest fun h => by simp [h] at hphase

theorem inv_of_present (hphase : s.phase = .present) (hrest : s.AtRest) (hpayload : s.HoldsPayload)
    (hshows : s.Shows (s.correctedBelow s.cfg.corrN)) : Inv s :=
  inv_of_atRest hstorage (.inr (.inr hphase)) hrest fun _ => ⟨hpayload, hshows⟩

theorem inv_of_read (hphase : s.phase = .read) (hrxcnt : s.rxcnt < s.cfg.dataLength)
    (htmr : s.tmr ≤ s.cfg.timeoutCycles) (hbound : s.rxcnt ≤ s.tmr) (hpx : s.px = 0) (hpy : s.py = 0)
    (hreceived : ∀ o, o < s.rxcnt → Mem.read s.pbuf o ≠ none) : Inv s :=
  { hstorage with
    legal := by simp [hphase, Phase.legal]
    rxcntRange := hrxcnt
    rxcntIdle := fun h => absurd hphase h
    tmrRange := htmr
    tmrIdle := fun h => absurd hphase h
    readBound := fun _ => hbound
    pxRange := hpx ▸ Cfg.valid.width_pos hstorage.config
    pyRange := hpy ▸ Cfg.valid.height_pos hstorage.config
    pxyIdle := fun _ _ => ⟨hpx, hpy⟩
    correctPx := by simp [hphase]
    received := fun _ => hreceived
    complete := by simp [hphase]
    applied := by simp [hphase]
    corrected := by simp [hphase]
    presented := by simp [hphase] }

theorem inv_of_apply (hphase : s.phase = .apply) (hrxcnt : s.rxcnt = 0) (htmr : s.tmr = 0)
    (hpx : s.px < s.cfg.width) (hpy : s.py < s.cfg.height) (hpayload : s.HoldsPayload)
    (happlied : ∀ x y, x < s.cfg.width → y < s.cfg.height →
      s.cfg.pixelNumber x y < s.cfg.pixelNumber s.px s.py →
      Mem.read s.pix (s.cfg.map x y) = some (s.payloadTriple x y)) : Inv s := by
  have hpixels := Cfg.valid.numPixels_pos hstorage.config
  have hdata := s.cfg.dataLength_eq
  exact
    { hstorage with
      legal := by simp [hphase, Phase.legal]
      rxcntRange := by omega
      rxcntIdle := fun _ => hrxcnt
      tmrRange := by omega
      tmrIdle := fun _ => htmr
      readBound := by simp [hphase]
      pxRange := hpx
      pyRange := hpy
      pxyIdle := fun h => absurd hphase h
      correctPx := by simp [hphase]
      received := by simp [hphase]
      complete := fun _ => hpayload
      applied := fun _ => happlied
      corrected := by simp [hphase]
      presented := by simp [hphase] }

theorem inv_of_correct (hphase : s.phase = .correct) (hrxcnt : s.rxcnt = 0) (htmr : s.tmr = 0)
    (hpx : s.px < s.cfg.corrN) (hpy : s.py = 0) (hpayload : s.HoldsPayload)
    (hshows : s.Shows (s.correctedBelow s.px)) : Inv s := by
  have hpixels := Cfg.valid.numPixels_pos hstorage.config
  have hdata := s.cfg.dataLength_eq
  have hheight := Cfg.valid.height_pos hstorage.config
  exact
    { hstorage with
      legal := by simp [hphase, Phase.legal]
      rxcntRange := by omega
      rxcntIdle := fun _ => hrxcnt
      tmrRange := by omega
      tmrIdle := fun _ => htmr
      readBound := by simp [hphase]
      pxRange := Nat.lt_of_lt_of_le hpx (Cfg.valid.corrN_le hstorage.config)
      pyRange := by omega
      pxyIdle := fun _ h => absurd hphase h
      correctPx := fun _ => ⟨hpy, by omega, hpx⟩
      received := by simp [hphase]
      complete := fun _ => hpayload
      applied := by simp [hphase]
      corrected := fun _ => hshows
      presented := by simp [hphase] }

end

/-! ### What a write to PIX shows -/

/-- A write at the index of one coordinate replaces what PIX shows there and nothing else (R170). -/
theorem read_write_map {c : Cfg} (hv : c.valid = true) (pix : Mem Pixel) (p : Pixel) {x y x' y' : Nat}
    (hx : x < c.width) (hy : y < c.height) (hx' : x' < c.width) (hy' : y' < c.height) :
    Mem.read (Mem.write pix (c.map x' y') p) (c.map x y) =
      if x = x' ∧ y = y' then some p else Mem.read pix (c.map x y) := by
  rw [Mem.read_write]
  have hiff : c.map x y = c.map x' y' ↔ x = x' ∧ y = y' :=
    ⟨Cfg.map_inj hv hx hy hx' hy', fun h => by rw [h.1, h.2]⟩
  simp only [hiff]

/-- R141, R147: the write at PX, PY adds that pixel to those PIX already holds of the payload. -/
theorem State.applied_write {s : State} (h : Inv s) (hphase : s.phase = .apply) {x y : Nat}
    (hx : x < s.cfg.width) (hy : y < s.cfg.height)
    (hbelow : s.cfg.pixelNumber x y ≤ s.cfg.pixelNumber s.px s.py) :
    Mem.read (Mem.write s.pix (s.cfg.map s.px s.py) (s.payloadTriple s.px s.py)) (s.cfg.map x y) =
      some (s.payloadTriple x y) := by
  rw [read_write_map h.config _ _ hx hy h.pxRange h.pyRange]
  split
  · next heq => rw [heq.1, heq.2]
  · next hne =>
    refine h.applied hphase x y hx hy (lt_of_le_of_ne hbelow fun heq => hne ?_)
    exact Cfg.pixelNumber_inj hx h.pxRange heq

/-- R143, R148: exchanging the triple of column PX in the last row extends the corrected columns by that one. -/
theorem State.corrected_write {s : State} (h : Inv s) (hphase : s.phase = .correct) {x y : Nat}
    (hx : x < s.cfg.width) (hy : y < s.cfg.height) :
    Mem.read (Mem.write s.pix (s.cfg.map s.px (s.cfg.height - 1))
        ((corrLut true).permute (s.pixel (s.cfg.map s.px (s.cfg.height - 1))))) (s.cfg.map x y) =
      some (s.correctedBelow (s.px + 1) x y) := by
  have hheight := Cfg.valid.height_pos h.config
  have hlast : s.cfg.height - 1 < s.cfg.height := by omega
  have hold : s.pixel (s.cfg.map s.px (s.cfg.height - 1)) = s.payloadTriple s.px (s.cfg.height - 1) := by
    rw [State.pixel, h.corrected hphase _ _ h.pxRange hlast]
    simp [LutEntry.permute_corrLut_false]
  rw [read_write_map h.config _ _ hx hy h.pxRange hlast, hold]
  split
  · next heq =>
    obtain ⟨rfl, rfl⟩ := heq
    have hregion : s.cfg.height - 1 + 1 = s.cfg.height := by omega
    simp [State.correctedBelow, hregion]
  · next hne =>
    rw [h.corrected hphase x y hx hy, State.correctedBelow]
    have hsame : (y + 1 = s.cfg.height ∧ x < s.px) ↔ (y + 1 = s.cfg.height ∧ x < s.px + 1) := by omega
    simp only [hsame]

/-! ### The condition bits in the PHASE that looks at them (R88) -/

theorem State.condExp_of_read {s : State} (h : s.phase = .read) :
    s.condExp = true ↔ s.tmr = s.cfg.timeoutCycles := by
  simp [State.condExp, State.expired, h]

theorem State.condLst_of_read {s : State} (h : s.phase = .read) :
    s.condLst = true ↔ s.rxcnt + 1 = s.cfg.dataLength := by
  simp [State.condLst, h]

theorem State.condLst_of_apply {s : State} (h : s.phase = .apply) :
    s.condLst = true ↔ s.px + 1 = s.cfg.width ∧ s.py + 1 = s.cfg.height := by
  simp [State.condLst, h]

theorem State.condLst_of_correct {s : State} (h : s.phase = .correct) :
    s.condLst = true ↔ s.px + 1 = s.cfg.corrN := by
  simp [State.condLst, h]

/-! ### Every operation keeps the invariant -/

section
variable {s t : State} (hinv : Inv s)
include hinv

/-- The start of a cycle touches the ports, INQ, the schedule and the cycle count only. -/
theorem Inv.beginCycle : Inv s.beginCycle := { hinv with }

theorem execReset_keeps_inv (h : execReset s = .next t) : Inv t := by
  obtain rfl := execReset_next h
  exact inv_of_seek (.empty hinv.config) (.inl rfl) ⟨rfl, rfl, rfl, rfl⟩

theorem execRpWait_keeps_inv (hphase : s.phase = .read) (htmr : s.tmr ≠ s.cfg.timeoutCycles)
    (h : execRpWait s = .next t) : Inv t := by
  obtain rfl := execRpWait_next h
  have hrange := hinv.tmrRange
  have hbound := hinv.readBound hphase
  obtain ⟨hpx, hpy⟩ := hinv.pxyIdle (by simp [hphase]) (by simp [hphase])
  exact inv_of_read hinv.storage hphase hinv.rxcntRange (by simp only; omega) (by simp only; omega) hpx hpy
    (hinv.received hphase)

theorem execRpStore_keeps_inv (hphase : s.phase = .read) (htmr : s.tmr ≠ s.cfg.timeoutCycles)
    (hnotLast : s.rxcnt + 1 ≠ s.cfg.dataLength) (h : execRpStore s = .next t) : Inv t := by
  obtain ⟨b, rest, -, hroom, rfl⟩ := execRpStore_next h
  have hrange := hinv.tmrRange
  have hbound := hinv.readBound hphase
  obtain ⟨hpx, hpy⟩ := hinv.pxyIdle (by simp [hphase]) (by simp [hphase])
  refine inv_of_read (hinv.storage.write_pbuf hroom b) hphase (by simp only; omega) (by simp only; omega)
    (by simp only; omega) hpx hpy fun o (ho : o < s.rxcnt + 1) => ?_
  simp only [Mem.read_write]
  split
  · simp
  · exact hinv.received hphase o (by omega)

theorem execRpLast_keeps_inv (hphase : s.phase = .read) (hlast : s.rxcnt + 1 = s.cfg.dataLength)
    (h : execRpLast s = .next t) : Inv t := by
  obtain ⟨b, rest, -, hroom, rfl⟩ := execRpLast_next h
  refine inv_of_apply (hinv.storage.write_pbuf hroom b) rfl rfl rfl (Cfg.valid.width_pos hinv.config)
    (Cfg.valid.height_pos hinv.config) (fun o (ho : o < s.cfg.dataLength) => ?_)
    fun x y _ _ hbelow => by simp [Cfg.pixelNumber] at hbelow
  simp only [Mem.read_write]
  split
  · simp
  · exact hinv.received hphase o (by omega)

theorem execRpTimeout_keeps_inv (hphase : s.phase = .read) (h : execRpTimeout s = .next t) : Inv t := by
  obtain rfl := execRpTimeout_next h
  obtain ⟨hpx, hpy⟩ := hinv.pxyIdle (by simp [hphase]) (by simp [hphase])
  exact inv_of_seek hinv.storage (.inl rfl) ⟨rfl, rfl, hpx, hpy⟩

theorem execMwWrpix_keeps_inv (hphase : s.phase = .apply)
    (hnotLast : ¬ (s.px + 1 = s.cfg.width ∧ s.py + 1 = s.cfg.height)) (h : execMwWrpix s = .next t) :
    Inv t := by
  obtain ⟨-, hindex, rfl⟩ := execMwWrpix_next h
  have hpx := hinv.pxRange
  have hpy := hinv.pyRange
  refine inv_of_apply (hinv.storage.write_pix hindex _) hphase (hinv.rxcntIdle (by simp [hphase]))
    (hinv.tmrIdle (by simp [hphase])) ?_ ?_ (hinv.complete (.inl hphase)) fun x y hx hy hbelow => ?_
  · simp only
    split <;> omega
  · simp only
    split <;> omega
  · rw [Cfg.pixelNumber_advance] at hbelow
    exact State.applied_write hinv hphase hx hy (Nat.le_of_lt_succ hbelow)

theorem execMwWrlast_keeps_inv (hphase : s.phase = .apply) (hpx : s.px + 1 = s.cfg.width)
    (hpy : s.py + 1 = s.cfg.height) (h : execMwWrlast s = .next t) : Inv t := by
  obtain ⟨-, hindex, rfl⟩ := execMwWrlast_next h
  have hcolumn : s.cfg.width - 1 = s.px := by omega
  have hrow : s.cfg.height - 1 = s.py := by omega
  have hnumber : s.cfg.numPixels - 1 = s.cfg.pixelNumber s.px s.py := by
    rw [← Cfg.pixelNumber_last hinv.config, hcolumn, hrow]
  simp only [hcolumn, hrow, hnumber] at hindex ⊢
  have hstorage := hinv.storage.write_pix hindex (s.payloadTriple s.px s.py)
  have hrxcnt := hinv.rxcntIdle (by simp [hphase])
  have htmr := hinv.tmrIdle (by simp [hphase])
  have hpayload := hinv.complete (.inl hphase)
  have hwritten : ∀ x y, x < s.cfg.width → y < s.cfg.height →
      Mem.read (Mem.write s.pix (s.cfg.map s.px s.py) (s.payloadTriple s.px s.py)) (s.cfg.map x y) =
        some (s.correctedBelow 0 x y) := fun x y hx hy => by
    rw [State.correctedBelow_zero]
    refine State.applied_write hinv hphase hx hy ?_
    have := Cfg.pixelNumber_lt hx hy
    omega
  by_cases hcorrN : s.cfg.corrN = 0
  · rw [← hcorrN] at hwritten
    exact inv_of_present hstorage (if_pos hcorrN) ⟨hrxcnt, htmr, rfl, rfl⟩ hpayload hwritten
  · exact inv_of_correct hstorage (if_neg hcorrN) hrxcnt htmr (Nat.pos_of_ne_zero hcorrN) rfl hpayload hwritten

theorem execMwSwap_keeps_inv (hphase : s.phase = .correct) (hnotLast : s.px + 1 ≠ s.cfg.corrN)
    (h : execMwSwap s = .next t) : Inv t := by
  obtain ⟨hindex, rfl⟩ := execMwSwap_next h
  obtain ⟨hpy, -, hpx⟩ := hinv.correctPx hphase
  have hheight := Cfg.valid.height_pos hinv.config
  have hregion : s.cfg.region s.px (s.cfg.height - 1) = true := by
    simp [Cfg.region, hpx, Nat.sub_add_cancel hheight]
  refine inv_of_correct (hinv.storage.write_pix hindex _) hphase (hinv.rxcntIdle (by simp [hphase]))
    (hinv.tmrIdle (by simp [hphase])) (by simp only; omega) hpy (hinv.complete (.inr (.inl hphase)))
    fun x y hx hy => ?_
  simp only [hregion]
  exact State.corrected_write hinv hphase hx hy

theorem execMwSwlast_keeps_inv (hphase : s.phase = .correct) (hlast : s.px + 1 = s.cfg.corrN)
    (h : execMwSwlast s = .next t) : Inv t := by
  obtain ⟨hindex, rfl⟩ := execMwSwlast_next h
  obtain ⟨hpy, -, -⟩ := hinv.correctPx hphase
  refine inv_of_present (hinv.storage.write_pix hindex _) rfl
    ⟨hinv.rxcntIdle (by simp [hphase]), hinv.tmrIdle (by simp [hphase]), rfl, hpy⟩
    (hinv.complete (.inr (.inl hphase))) fun x y hx hy => ?_
  simp only [← hlast]
  exact State.corrected_write hinv hphase hx hy

/-- In SEEK1, SEEK2 and PRESENT the counters are at rest, and an operation that goes to SEEK1 or SEEK2 from there
leaves them so. -/
theorem Inv.goto_seek {rest : List Byte} {p : Phase} (hread : s.phase ≠ .read) (happly : s.phase ≠ .apply)
    (hcorrect : s.phase ≠ .correct) (hp : p = .seek1 ∨ p = .seek2) :
    Inv { s with inq := rest, phase := p } :=
  inv_of_seek hinv.storage hp (hinv.atRest hread happly hcorrect)

theorem execS2Start_keeps_inv (hphase : s.phase = .seek2) (h : execS2Start s = .next t) : Inv t := by
  obtain ⟨_, _, -, rfl⟩ := execS2Start_next h
  have hdata := s.cfg.dataLength_eq
  have hpixels := Cfg.valid.numPixels_pos hinv.config
  obtain ⟨hpx, hpy⟩ := hinv.pxyIdle (by simp [hphase]) (by simp [hphase])
  exact inv_of_read hinv.storage rfl (by simp only; omega) (Nat.zero_le _) (Nat.le_refl _) hpx hpy
    fun o ho => absurd ho (Nat.not_lt_zero o)

/-! The operations of one PHASE, split as the operation map selects them (R89). -/

theorem seek1_keeps_inv (hrst : s.inp.rst = false) (hphase : s.phase = .seek1)
    (h : exec s.sel.operation s = .next t) : Inv t := by
  have hseek {rest p} := hinv.goto_seek (rest := rest) (p := p) (by simp [hphase]) (by simp [hphase])
    (by simp [hphase])
  simp only [State.operation_eq, hrst, hphase, Bool.false_eq_true, if_false] at h
  split at h
  · exact execS1Wait_next h ▸ hinv
  · split at h
    · obtain ⟨_, _, -, rfl⟩ := execS1Hit_next h
      exact hseek (.inr rfl)
    · obtain ⟨_, _, -, rfl⟩ := execS1Miss_next h
      exact hseek (.inl rfl)

theorem seek2_keeps_inv (hrst : s.inp.rst = false) (hphase : s.phase = .seek2)
    (h : exec s.sel.operation s = .next t) : Inv t := by
  have hseek {rest p} := hinv.goto_seek (rest := rest) (p := p) (by simp [hphase]) (by simp [hphase])
    (by simp [hphase])
  simp only [State.operation_eq, hrst, hphase, Bool.false_eq_true, if_false] at h
  split at h
  · exact execS2Wait_next h ▸ hinv
  · split at h
    · exact execS2Start_keeps_inv hinv hphase h
    · split at h
      · obtain ⟨_, _, -, rfl⟩ := execS2Again_next h
        exact hseek (.inr rfl)
      · obtain ⟨_, _, -, rfl⟩ := execS2Miss_next h
        exact hseek (.inl rfl)

theorem read_keeps_inv (hrst : s.inp.rst = false) (hphase : s.phase = .read)
    (h : exec s.sel.operation s = .next t) : Inv t := by
  simp only [State.operation_eq, hrst, hphase, Bool.false_eq_true, if_false] at h
  split at h
  · exact execRpTimeout_keeps_inv hinv hphase h
  · next hexp =>
    have htmr : s.tmr ≠ s.cfg.timeoutCycles := fun heq => hexp ((State.condExp_of_read hphase).2 heq)
    split at h
    · exact execRpWait_keeps_inv hinv hphase htmr h
    · split at h
      · next hlast => exact execRpLast_keeps_inv hinv hphase ((State.condLst_of_read hphase).1 hlast) h
      · next hlast =>
        exact execRpStore_keeps_inv hinv hphase htmr (fun heq => hlast ((State.condLst_of_read hphase).2 heq)) h

theorem apply_keeps_inv (hrst : s.inp.rst = false) (hphase : s.phase = .apply)
    (h : exec s.sel.operation s = .next t) : Inv t := by
  simp only [State.operation_eq, hrst, hphase, Bool.false_eq_true, if_false] at h
  split at h
  · next hlast =>
    obtain ⟨hpx, hpy⟩ := (State.condLst_of_apply hphase).1 hlast
    exact execMwWrlast_keeps_inv hinv hphase hpx hpy h
  · next hlast =>
    exact execMwWrpix_keeps_inv hinv hphase (fun heq => hlast ((State.condLst_of_apply hphase).2 heq)) h

theorem correct_keeps_inv (hrst : s.inp.rst = false) (hphase : s.phase = .correct)
    (h : exec s.sel.operation s = .next t) : Inv t := by
  simp only [State.operation_eq, hrst, hphase, Bool.false_eq_true, if_false] at h
  split at h
  · next hlast => exact execMwSwlast_keeps_inv hinv hphase ((State.condLst_of_correct hphase).1 hlast) h
  · next hlast =>
    exact execMwSwap_keeps_inv hinv hphase (fun heq => hlast ((State.condLst_of_correct hphase).2 heq)) h

theorem present_keeps_inv (hrst : s.inp.rst = false) (hphase : s.phase = .present)
    (h : exec s.sel.operation s = .next t) : Inv t := by
  simp only [State.operation_eq, hrst, hphase, Bool.false_eq_true, if_false] at h
  split at h
  · obtain rfl := execMwDone_next h
    exact hinv.goto_seek (by simp [hphase]) (by simp [hphase]) (by simp [hphase]) (.inl rfl)
  · exact execMwHold_next h ▸ hinv

/-- The operation a cycle selects keeps the invariant; codes 6 and 7 it excludes. -/
theorem exec_operation_keeps_inv (h : exec s.sel.operation s = .next t) : Inv t := by
  cases hrst : s.inp.rst with
  | true =>
    simp only [State.operation_eq, hrst, if_true] at h
    exact execReset_keeps_inv hinv h
  | false =>
    cases hphase : s.phase with
    | seek1 => exact seek1_keeps_inv hinv hrst hphase h
    | seek2 => exact seek2_keeps_inv hinv hrst hphase h
    | read => exact read_keeps_inv hinv hrst hphase h
    | apply => exact apply_keeps_inv hinv hrst hphase h
    | correct => exact correct_keeps_inv hinv hrst hphase h
    | present => exact present_keeps_inv hinv hrst hphase h
    | code6 => exact absurd hinv.legal (by simp [hphase, Phase.legal])
    | code7 => exact absurd hinv.legal (by simp [hphase, Phase.legal])

end

/-- Settles O40: the start of the cycle keeps the invariant (`Inv.beginCycle`), and so does the operation it selects. -/
theorem stepKeepsInvariant : Obligations.StepKeepsInvariant := by
  intro s t hinv hstep
  obtain ⟨-, -, hexec⟩ := step_next hstep
  exact exec_operation_keeps_inv hinv.beginCycle hexec

/-! ### The state right after power-up, and the widths of the counters -/

/-- Settles O39: after power-up both memories are empty and the counters at rest (R34). -/
theorem powerUpMeetsInvariant : Obligations.PowerUpMeetsInvariant :=
  fun _ hvalid => inv_of_seek (.empty hvalid) (.inl rfl) ⟨rfl, rfl, rfl, rfl⟩

/-- R20: a register as wide as its largest value `m` holds every value up to `m`. -/
theorem lt_two_pow_bitlen_of_le {n m : Nat} (h : n ≤ m) : n < 2 ^ bitlen m :=
  Nat.lt_of_le_of_lt h (lt_two_pow_bitlen m)

/-- R20, R24: the same with the width at least 1. -/
theorem lt_two_pow_max_bitlen_of_le {n m : Nat} (h : n ≤ m) : n < 2 ^ max 1 (bitlen m) :=
  Nat.lt_of_lt_of_le (lt_two_pow_bitlen_of_le h)
    (Nat.pow_le_pow_right (by decide) (Nat.le_max_right 1 (bitlen m)))

/-- Settles O42: each counter is at most the number whose width its register has. -/
theorem countersFitTheirRegisters : Obligations.CountersFitTheirRegisters := by
  intro s hinv
  exact ⟨lt_two_pow_bitlen_of_le (Nat.le_pred_of_lt hinv.rxcntRange), lt_two_pow_bitlen_of_le hinv.tmrRange,
    lt_two_pow_max_bitlen_of_le (Nat.le_pred_of_lt hinv.pxRange),
    lt_two_pow_max_bitlen_of_le (Nat.le_pred_of_lt hinv.pyRange)⟩

/-! ### What writes each register -/

/-- R20, column "written by", for the registers and memories, INQ and the epoch, with a memory changed when it is other
data; for PHASE, of the selected operation. -/
structure WrittenBy (i : Instr) (s t : State) : Prop where
  rxcnt : t.rxcnt ≠ s.rxcnt → i ∈ [Instr.s2Start, .rpStore, .rpLast, .rpTimeout, .reset]
  tmr   : t.tmr ≠ s.tmr → i ∈ [Instr.s2Start, .rpWait, .rpStore, .rpLast, .rpTimeout, .reset]
  px    : t.px ≠ s.px → i ∈ [Instr.rpLast, .mwWrpix, .mwWrlast, .mwSwap, .mwSwlast, .reset]
  py    : t.py ≠ s.py → i ∈ [Instr.rpLast, .mwWrpix, .mwWrlast, .reset]
  pbuf  : t.pbuf ≠ s.pbuf → i ∈ [Instr.rpStore, .rpLast, .reset]
  pix   : t.pix ≠ s.pix → i ∈ [Instr.mwWrpix, .mwWrlast, .mwSwap, .mwSwlast, .reset]
  phase : s.op = some i → t.phase ≠ s.phase →
    i ∈ [Instr.s1Hit, .s2Start, .s2Miss, .rpLast, .rpTimeout, .mwWrlast, .mwSwlast, .mwDone, .illRecover, .reset]
  inq   : t.inq ≠ s.inq →
    i ∈ [Instr.s1Miss, .s1Hit, .s2Again, .s2Start, .s2Miss, .rpStore, .rpLast, .rpTimeout, .reset]
  epoch : t.epoch ≠ s.epoch → i = .reset

/-- R89 by PHASE: the operations selected in it without a reset. -/
def operationsOf : Phase → List Instr
  | .seek1   => [.s1Wait, .s1Miss, .s1Hit]
  | .seek2   => [.s2Wait, .s2Again, .s2Start, .s2Miss]
  | .read    => [.rpWait, .rpStore, .rpLast, .rpTimeout]
  | .apply   => [.mwWrpix, .mwWrlast]
  | .correct => [.mwSwap, .mwSwlast]
  | .present => [.mwHold, .mwDone]
  | .code6   => [.illRecover]
  | .code7   => [.illRecover]

theorem State.operation_mem_operationsOf {s : State} (hrst : s.inp.rst = false) :
    s.sel.operation ∈ operationsOf s.phase := by
  simp only [State.operation_eq, hrst, Bool.false_eq_true, if_false]
  cases s.phase <;> simp only [operationsOf] <;> (repeat' split) <;> simp

theorem State.mem_operationsOf_of_op {s : State} {i : Instr} (h : s.op = some i) (hi : i ≠ .reset) :
    i ∈ operationsOf s.phase := by
  rw [State.op_eq, Option.some.injEq] at h
  subst h
  refine State.operation_mem_operationsOf (Bool.eq_false_iff.2 fun hrst => hi ?_)
  simp only [State.operation_eq, hrst, if_true]

/-- R112 stays in SEEK1, since it is selected there. -/
theorem State.phase_of_op_s1Miss {s : State} (h : s.op = some .s1Miss) : s.phase = .seek1 := by
  have hmem := State.mem_operationsOf_of_op h (by decide)
  cases hphase : s.phase <;> simp [hphase, operationsOf] at hmem ⊢

/-- R115 stays in SEEK2, since it is selected there. -/
theorem State.phase_of_op_s2Again {s : State} (h : s.op = some .s2Again) : s.phase = .seek2 := by
  have hmem := State.mem_operationsOf_of_op h (by decide)
  cases hphase : s.phase <;> simp [hphase, operationsOf] at hmem ⊢

theorem exec_writtenBy {i : Instr} {s t : State} (h : exec i s = .next t) : WrittenBy i s t := by
  cases i with
  | reset => constructor <;> simp
  | s1Wait => obtain rfl := execS1Wait_next h; constructor <;> simp
  | s1Miss =>
    obtain ⟨_, _, -, rfl⟩ := execS1Miss_next h
    constructor <;> simp +contextual [State.phase_of_op_s1Miss]
  | s1Hit => obtain ⟨_, _, -, rfl⟩ := execS1Hit_next h; constructor <;> simp
  | s2Wait => obtain rfl := execS2Wait_next h; constructor <;> simp
  | s2Again =>
    obtain ⟨_, _, -, rfl⟩ := execS2Again_next h
    constructor <;> simp +contextual [State.phase_of_op_s2Again]
  | s2Start => obtain ⟨_, _, -, rfl⟩ := execS2Start_next h; constructor <;> simp
  | s2Miss => obtain ⟨_, _, -, rfl⟩ := execS2Miss_next h; constructor <;> simp
  | rpWait => obtain rfl := execRpWait_next h; constructor <;> simp
  | rpStore => obtain ⟨_, _, -, -, rfl⟩ := execRpStore_next h; constructor <;> simp
  | rpLast => obtain ⟨_, _, -, -, rfl⟩ := execRpLast_next h; constructor <;> simp
  | rpTimeout => obtain rfl := execRpTimeout_next h; constructor <;> simp
  | illRecover => obtain rfl := execIllRecover_next h; constructor <;> simp
  | mwWrpix => obtain ⟨-, -, rfl⟩ := execMwWrpix_next h; constructor <;> simp
  | mwWrlast => obtain ⟨-, -, rfl⟩ := execMwWrlast_next h; constructor <;> simp
  | mwSwap => obtain ⟨-, rfl⟩ := execMwSwap_next h; constructor <;> simp
  | mwSwlast => obtain ⟨-, rfl⟩ := execMwSwlast_next h; constructor <;> simp
  | mwHold => obtain rfl := execMwHold_next h; constructor <;> simp
  | mwDone => obtain rfl := execMwDone_next h; constructor <;> simp

/-- Settles O33: `exec_writtenBy` for what R20 lists, `exec_frame` for what no operation writes. -/
theorem writtenOnlyByListedOperations : Obligations.WrittenOnlyByListedOperations := by
  intro i s t h
  have hwritten := exec_writtenBy h
  obtain ⟨hcfg, hdepth, hinp, hsched, hcycle⟩ := exec_frame h
  exact ⟨hwritten.rxcnt, hwritten.tmr, hwritten.px, hwritten.py,
    fun ⟨_, hread⟩ => hwritten.pbuf fun heq => hread (heq ▸ rfl),
    fun ⟨_, hread⟩ => hwritten.pix fun heq => hread (heq ▸ rfl),
    hwritten.phase, hwritten.inq, hwritten.epoch, hcfg, hinp, hsched, hdepth, hcycle⟩

/-- R126, R32 (g): none of the operations of another PHASE than APPLY and CORRECT writes PIX. -/
theorem State.operation_notMem_pixWriters {s : State} (hrst : s.inp.rst = false) (happly : s.phase ≠ .apply)
    (hcorrect : s.phase ≠ .correct) :
    s.sel.operation ∉ [Instr.mwWrpix, .mwWrlast, .mwSwap, .mwSwlast, .reset] := by
  have hdisjoint : ∀ i ∈ operationsOf s.phase, i ∉ [Instr.mwWrpix, .mwWrlast, .mwSwap, .mwSwlast, .reset] := by
    cases hphase : s.phase with
    | apply => exact absurd hphase happly
    | correct => exact absurd hphase hcorrect
    | _ => decide
  exact hdisjoint _ (State.operation_mem_operationsOf hrst)

/-- Settles O35: PIX is written by five operations only (`exec_writtenBy`), and none of them is selected. -/
theorem pixelsChangeOnlyInApplyAndCorrect : Obligations.PixelsChangeOnlyInApplyAndCorrect := by
  intro s t hstep hrst happly hcorrect
  obtain ⟨-, -, hexec⟩ := step_next hstep
  have hwritten := exec_writtenBy hexec
  have hnot := State.operation_notMem_pixWriters (s := s.beginCycle) hrst happly hcorrect
  have hpix : t.pix = s.pix := not_not.1 fun hne => hnot (hwritten.pix hne)
  have hepoch : t.epoch = s.epoch := not_not.1 fun hne => hnot (by simp [hwritten.epoch hne])
  exact ⟨hpix, fun i => State.pixel_congr hpix hepoch i⟩

/-! ### The outputs -/

theorem State.rxReady_iff (s : State) :
    s.rxReady = true ↔
      s.phase = .seek1 ∨ s.phase = .seek2 ∨ (s.phase = .read ∧ s.tmr ≠ s.cfg.timeoutCycles) := by
  simp only [State.rxReady, State.expired, Bool.or_eq_true, Bool.and_eq_true, Bool.not_eq_true',
    Bool.and_eq_false_iff, decide_eq_true_eq, decide_eq_false_iff_not]
  tauto

theorem State.presReq_iff (s : State) : s.presReq = true ↔ s.phase = .present := by
  simp [State.presReq]

/-- R30: what the outputs read of the environment is `disp_addr_i`, and what the pulse reads of it. -/
theorem State.outputs_of_ports (s : State) (q : List Byte) (c : CycleIn) (haddr : c.dispAddr = s.inp.dispAddr)
    (hpulse : ({ s with inq := q, inp := c } : State).truncationPulse = s.truncationPulse) :
    ({ s with inq := q, inp := c } : State).outputs = s.outputs := by
  have hdisp : ({ s with inq := q, inp := c } : State).dispData = s.dispData := by
    simp only [State.dispData, State.dispAddr, haddr]
    rfl
  simp only [State.outputs, hpulse, hdisp]
  rfl

/-- Settles O26: each output as R31's function of the registers, and `State.outputs_of_ports` for what none reads. -/
theorem outputFunctions : Obligations.OutputFunctions := by
  intro s
  refine ⟨s.rxReady_iff, s.truncationPulse_iff, s.truncationPulse_iff, s.presReq_iff, ?_, ?_, ?_⟩
  · rintro a rfl hphase hexists
    exact if_pos ⟨hphase, hexists⟩
  · intro q c haddr hrst
    refine s.outputs_of_ports q c haddr ?_
    simp only [State.truncationPulse, hrst]
    rfl
  · intro c haddr hnotExpired
    have hquiet : s.expired = false := by simpa [State.expired] using hnotExpired
    refine s.outputs_of_ports s.inq c haddr ?_
    simp only [State.truncationPulse, hquiet, Bool.false_and]
    exact congrArg (· && !c.rst) hquiet

/-- R34: what RESET leaves, as far as any state after a reset has it. -/
structure State.AfterReset (t : State) : Prop where
  phase : t.phase = .seek1
  rest  : t.AtRest
  pbuf  : t.pbuf = []
  pix   : t.pix = []

theorem powerUp_afterReset (c : Cfg) : (State.powerUp c).AfterReset :=
  ⟨rfl, ⟨rfl, rfl, rfl, rfl⟩, rfl, rfl⟩

theorem execReset_afterReset {s t : State} (h : execReset s = .next t) : t.AfterReset := by
  obtain rfl := execReset_next h
  exact ⟨rfl, ⟨rfl, rfl, rfl, rfl⟩, rfl, rfl⟩

/-- Settles O13: SEEK1 decides the outputs, and an empty memory lists no address. -/
theorem stateAfterReset : Obligations.StateAfterReset := by
  intro t ht
  have hreset : t.AfterReset := by
    rcases ht with rfl | ⟨s, h⟩
    · exact powerUp_afterReset _
    · exact execReset_afterReset h
  obtain ⟨hphase, ⟨hrxcnt, htmr, hpx, hpy⟩, hpbuf, hpix⟩ := hreset
  have hready : t.rxReady = true := t.rxReady_iff.2 (.inl hphase)
  have hpulse : t.truncationPulse = false := by simp [State.truncationPulse, State.expired, hphase]
  have hreq : t.presReq = false := by simp [State.presReq, hphase]
  refine ⟨hphase, hrxcnt, htmr, hpx, hpy, hready, hpulse, hpulse, hreq, fun o => ⟨?_, ?_⟩⟩
  · simp [State.pbufByte, hpbuf]
  · simp [State.pixel, hpix]

end Machine

end Sys2Proof

/-! PROOFS of the family 20_memory: the input queue, that stored bytes steer nothing, the display read, and overflow. -/

namespace Sys2Proof

/-- What a memory lists lies in the range it is bounded by. -/
theorem Mem.lt_of_read_of_below {α : Type} {m : Mem α} {n a : Nat} {v : α} (h : Mem.below m n = true)
    (hr : Mem.read m a = some v) : a < n :=
  (Mem.below_iff m n).1 h _ (Mem.mem_of_read m a v hr)

/-- R81, R82: the word of a triple the correction lookup has passed on (R175, R176). -/
theorem Pixel.word_permute_corrLut (region : Bool) (r g b : Byte) :
    ((corrLut region).permute ⟨r, g, b⟩).word = if region then g ++ r ++ b else r ++ g ++ b := by
  cases region <;> rfl

/-- R61: the operations that take a byte, by `pop()`. The byte RESET lets go of is the handshake's (R220). -/
def Instr.takesByte : Instr → Bool
  | .s1Miss => true
  | .s1Hit => true
  | .s2Again => true
  | .s2Start => true
  | .s2Miss => true
  | .rpStore => true
  | .rpLast => true
  | _ => false

namespace Machine

/-! ### The input queue -/

/-- R89, R197: RESET is selected by `rst_i` alone. -/
theorem State.operation_eq_reset_iff (s : State) : s.sel.operation = .reset ↔ s.inp.rst = true := by
  constructor
  · intro h
    by_contra hrst
    have hmem := State.operation_mem_operationsOf (Bool.eq_false_iff.2 hrst)
    rw [h] at hmem
    cases hphase : s.phase <;> simp [hphase, operationsOf] at hmem
  · intro hrst
    simp only [State.operation_eq, hrst, if_true]

/-- R121, R192: the pulse shows in exactly the cycles of the truncation trap. -/
theorem State.operation_eq_rpTimeout_iff (s : State) :
    s.sel.operation = .rpTimeout ↔ s.truncationPulse = true := by
  rw [State.truncationPulse_iff]
  constructor
  · intro h
    have hrst : s.inp.rst = false :=
      Bool.eq_false_iff.2 fun hrst => by simp [s.operation_eq_reset_iff.2 hrst] at h
    have hphase : s.phase = .read := by
      have hmem := State.operation_mem_operationsOf hrst
      rw [h] at hmem
      cases hphase : s.phase <;> simp [hphase, operationsOf] at hmem ⊢
    have hexp : s.condExp = true := by
      by_contra hexp
      simp only [State.operation_eq, hrst, hphase, hexp, Bool.false_eq_true, if_false] at h
      (repeat' split at h) <;> cases h
    exact ⟨hphase, (State.condExp_of_read hphase).1 hexp, hrst⟩
  · rintro ⟨hphase, htmr, hrst⟩
    simp only [State.operation_eq, hrst, hphase, (State.condExp_of_read hphase).2 htmr, Bool.false_eq_true,
      if_false, if_true]

/-- R51: without a reset, a byte is taken exactly when one is offered and `rx_ready_o` is 1. -/
theorem State.operation_takesByte {s : State} (hrst : s.inp.rst = false) :
    s.sel.operation.takesByte = (s.rxReady && s.rxValid) := by
  change _ = ((decide (s.phase = .seek1) || decide (s.phase = .seek2) ||
    (decide (s.phase = .read) && !s.condExp)) && s.condV)
  simp only [State.operation_eq, hrst, Bool.false_eq_true, if_false]
  cases s.phase with
  | seek1 => cases s.condV <;> cases s.condM1 <;> rfl
  | seek2 => cases s.condV <;> cases s.condM2 <;> cases s.condM1 <;> rfl
  | read => cases s.condExp <;> cases s.condV <;> cases s.condLst <;> rfl
  | apply => cases s.condLst <;> rfl
  | correct => cases s.condLst <;> rfl
  | present => cases s.condDone <;> rfl
  | code6 => rfl
  | code7 => rfl

theorem exec_inq_of_takesByte {i : Instr} {s t : State} (hi : i.takesByte = true) (h : exec i s = .next t) :
    t.inq = s.inq.tail := by
  cases i with
  | s1Miss => obtain ⟨_, _, hq, rfl⟩ := execS1Miss_next h; simp [hq]
  | s1Hit => obtain ⟨_, _, hq, rfl⟩ := execS1Hit_next h; simp [hq]
  | s2Again => obtain ⟨_, _, hq, rfl⟩ := execS2Again_next h; simp [hq]
  | s2Start => obtain ⟨_, _, hq, rfl⟩ := execS2Start_next h; simp [hq]
  | s2Miss => obtain ⟨_, _, hq, rfl⟩ := execS2Miss_next h; simp [hq]
  | rpStore => obtain ⟨_, _, hq, -, rfl⟩ := execRpStore_next h; simp [hq]
  | rpLast => obtain ⟨_, _, hq, -, rfl⟩ := execRpLast_next h; simp [hq]
  | _ => cases hi

/-- R51, R53, R61: besides the takes, only RESET and the trap's flush touch INQ (`exec_writtenBy`). -/
theorem exec_inq_of_not_takesByte {i : Instr} {s t : State} (hi : i.takesByte = false) (hreset : i ≠ .reset)
    (htrap : i ≠ .rpTimeout) (h : exec i s = .next t) : t.inq = s.inq := by
  have hlisted : ∀ j ∈ [Instr.s1Miss, .s1Hit, .s2Again, .s2Start, .s2Miss, .rpStore, .rpLast, .rpTimeout, .reset],
      j.takesByte = true ∨ j = .rpTimeout ∨ j = .reset := by decide
  by_contra hne
  rcases hlisted i ((exec_writtenBy h).inq hne) with htakes | htimeout | hrst
  · exact Bool.false_ne_true (hi.symm.trans htakes)
  · exact htrap htimeout
  · exact hreset hrst

/-- With no byte to take, the handshake leaves INQ as it is. -/
theorem State.inqAfterReady_of_not_taken {s : State} (h : (s.rxReady && s.rxValid) = false) :
    s.inqAfterReady = s.inq := by
  unfold State.inqAfterReady
  split
  · next hready =>
    have hempty : s.inq = [] := by simpa [hready, State.rxValid] using h
    simp [hempty]
  · rfl

/-- R51, R53, R220: what the selected operation leaves of INQ, by the cycle's outputs. -/
theorem exec_operation_inq {s t : State} (h : exec s.sel.operation s = .next t) :
    t.inq = if s.truncationPulse then s.flushed else s.inqAfterReady := by
  by_cases hrst : s.inp.rst = true
  · rw [s.operation_eq_reset_iff.2 hrst] at h
    simp [execReset_next h, State.truncationPulse, hrst]
  by_cases hpulse : s.truncationPulse = true
  · rw [s.operation_eq_rpTimeout_iff.2 hpulse] at h
    simp [execRpTimeout_next h, hpulse]
  rw [if_neg hpulse]
  have htakes := State.operation_takesByte (Bool.eq_false_iff.2 hrst)
  cases htaken : s.rxReady && s.rxValid with
  | true =>
    have hready : s.rxReady = true := (Bool.and_eq_true_iff.1 htaken).1
    rw [exec_inq_of_takesByte (htakes.trans htaken) h, State.inqAfterReady, if_pos hready]
  | false =>
    rw [State.inqAfterReady_of_not_taken htaken]
    exact exec_inq_of_not_takesByte (htakes.trans htaken) (fun heq => hrst (s.operation_eq_reset_iff.1 heq))
      (fun heq => hpulse (s.operation_eq_rpTimeout_iff.1 heq)) h

/-- INQ over a whole cycle: the operation sees what the cycle's start brought. -/
theorem step_inq {s t : State} (h : step s = .next t) :
    t.inq = if s.beginCycle.truncationPulse then s.beginCycle.flushed else s.beginCycle.inqAfterReady := by
  obtain ⟨-, -, hexec⟩ := step_next h
  exact exec_operation_inq hexec

/-- Settles O27: `step_inq`, and the pulse excludes `rx_ready_o` (`State.rxReady_of_truncationPulse`). -/
theorem inputQueueHandshake : Obligations.InputQueueHandshake :=
  ⟨fun _ hflush => State.rxReady_of_truncationPulse hflush, fun _ _ hstep => step_inq hstep⟩

/-- R68, R140: while the Matrix Writer runs, `rx_ready_o` is 0 and no pulse shows. -/
theorem State.writer_outputs {s : State} (h : s.phase = .apply ∨ s.phase = .correct ∨ s.phase = .present) :
    s.rxReady = false ∧ s.truncationPulse = false := by
  rcases h with h | h | h <;> simp [State.rxReady, State.truncationPulse, State.expired, h]

/-- Settles O28: with neither a flush nor `rx_ready_o`, INQ is what the cycle's start left (`step_inq`). -/
theorem noByteTakenWhileWriterRuns : Obligations.NoByteTakenWhileWriterRuns := by
  intro s t hphase hstep
  obtain ⟨hready, hpulse⟩ := State.writer_outputs (s := s.beginCycle) hphase
  rw [step_inq hstep, State.inqAfterReady, hready, hpulse]
  rfl

/-! ### The memories' contents steer nothing -/

/-- R70: where `o` answers a next state, `o'` answers one too, and the two differ in the contents of PBUF and PIX
only. -/
def AnswersAlike (o o' : Out) : Prop :=
  ∀ t, o = .next t → ∃ t', o' = .next t' ∧ t = { t' with pbuf := t.pbuf, pix := t.pix }

section
variable {s : State} {m : Mem Byte} {p : Mem Pixel}

theorem AnswersAlike.next {s' : State} (h : s' = { s with pbuf := m, pix := p }) :
    AnswersAlike (.next s) (.next s') := by
  rintro t ⟨⟩
  exact ⟨s', rfl, by rw [h]⟩

/-! Each shared operation (R13) keeps outcomes alike: what it checks is a register, INQ or CFG, never a stored value. -/

theorem AnswersAlike.takeByte {k k' : Byte → State → Out}
    (hk : ∀ b u m p, AnswersAlike (k b u) (k' b { u with pbuf := m, pix := p })) :
    AnswersAlike (s.takeByte k) (State.takeByte { s with pbuf := m, pix := p } k') := by
  intro t h
  obtain ⟨b, rest, hq, h⟩ := State.takeByte_next h
  rw [State.takeByte_cons { s with pbuf := m, pix := p } b rest k' hq]
  exact hk b _ m p t h

theorem AnswersAlike.writePbuf {o : Nat} {b b' : Byte} {k k' : State → Out}
    (hk : ∀ u m p, AnswersAlike (k u) (k' { u with pbuf := m, pix := p })) :
    AnswersAlike (s.writePbuf o b k) (State.writePbuf { s with pbuf := m, pix := p } o b' k') := by
  intro t h
  obtain ⟨ho, h⟩ := State.writePbuf_next h
  rw [State.writePbuf_of_lt { s with pbuf := m, pix := p } o b' k' ho]
  exact hk { s with pbuf := Mem.write s.pbuf o b } _ p t h

theorem AnswersAlike.readPbuf3 {a : Nat} {k k' : Pixel → Out} (hk : ∀ q q', AnswersAlike (k q) (k' q')) :
    AnswersAlike (s.readPbuf3 a k) (State.readPbuf3 { s with pbuf := m, pix := p } a k') := by
  intro t h
  obtain ⟨ha, h⟩ := State.readPbuf3_next h
  rw [State.readPbuf3_of_le { s with pbuf := m, pix := p } a k' ha]
  exact hk _ _ t h

theorem AnswersAlike.writePix {i : Nat} {q q' : Pixel} {k k' : State → Out}
    (hk : ∀ u m p, AnswersAlike (k u) (k' { u with pbuf := m, pix := p })) :
    AnswersAlike (s.writePix i q k) (State.writePix { s with pbuf := m, pix := p } i q' k') := by
  intro t h
  obtain ⟨hi, h⟩ := State.writePix_next h
  rw [State.writePix_of_lt { s with pbuf := m, pix := p } i q' k' hi]
  exact hk { s with pix := Mem.write s.pix i q } m _ t h

theorem AnswersAlike.readPix {i : Nat} {k k' : Pixel → Out} (hk : ∀ q q', AnswersAlike (k q) (k' q')) :
    AnswersAlike (s.readPix i k) (State.readPix { s with pbuf := m, pix := p } i k') := by
  intro t h
  obtain ⟨hi, h⟩ := State.readPix_next h
  rw [State.readPix_of_lt { s with pbuf := m, pix := p } i k' hi]
  exact hk _ _ t h

/-- R70 for one operation: it reads stored values only to store them again. -/
theorem exec_answersAlike (i : Instr) (s : State) (m : Mem Byte) (p : Mem Pixel) :
    AnswersAlike (exec i s) (exec i { s with pbuf := m, pix := p }) := by
  cases i with
  | reset => exact .next rfl
  | s1Wait => exact .next rfl
  | s1Miss => simp only [exec, execS1Miss]; exact .takeByte fun _ _ _ _ => .next rfl
  | s1Hit => simp only [exec, execS1Hit]; exact .takeByte fun _ _ _ _ => .next rfl
  | s2Wait => exact .next rfl
  | s2Again => simp only [exec, execS2Again]; exact .takeByte fun _ _ _ _ => .next rfl
  | s2Start => simp only [exec, execS2Start]; exact .takeByte fun _ _ _ _ => .next rfl
  | s2Miss => simp only [exec, execS2Miss]; exact .takeByte fun _ _ _ _ => .next rfl
  | rpWait => exact .next rfl
  | rpStore => simp only [exec, execRpStore]; exact .takeByte fun _ _ _ _ => .writePbuf fun _ _ _ => .next rfl
  | rpLast => simp only [exec, execRpLast]; exact .takeByte fun _ _ _ _ => .writePbuf fun _ _ _ => .next rfl
  | rpTimeout => exact .next rfl
  | illRecover => exact .next rfl
  | mwWrpix =>
    simp only [exec, execMwWrpix]
    refine .readPbuf3 fun _ _ => .writePix fun _ m p => .next (m := m) (p := p) ?_
    split <;> rfl
  | mwWrlast => simp only [exec, execMwWrlast]; exact .readPbuf3 fun _ _ => .writePix fun _ _ _ => .next rfl
  | mwSwap => simp only [exec, execMwSwap]; exact .readPix fun _ _ => .writePix fun _ _ _ => .next rfl
  | mwSwlast => simp only [exec, execMwSwlast]; exact .readPix fun _ _ => .writePix fun _ _ _ => .next rfl
  | mwHold => exact .next rfl
  | mwDone => exact .next rfl

end

/-- Settles O38: no condition bit reads PBUF or PIX, so the same operation is selected; then `exec_answersAlike`. -/
theorem storedBytesNeverSteer : Obligations.StoredBytesNeverSteer := by
  intro s t m p hstep
  obtain ⟨hvalid, hfits, hexec⟩ := step_next hstep
  have hop : State.op { s.beginCycle with pbuf := m, pix := p } = some s.beginCycle.sel.operation :=
    s.beginCycle.op_eq
  have hstep' : step { s with pbuf := m, pix := p } =
      exec s.beginCycle.sel.operation { s.beginCycle with pbuf := m, pix := p } :=
    step_of_op (s := { s with pbuf := m, pix := p }) hvalid hfits hop
  rw [hstep']
  exact exec_answersAlike _ s.beginCycle m p t hexec

/-! ### The display read -/

/-- R31, R56: the word on `disp_data_o` in PRESENT, at an index PIX lists. -/
theorem State.dispData_of_read {s : State} {p : Pixel} (hinv : Inv s) (hphase : s.phase = .present)
    (hread : Mem.read s.pix s.inp.dispAddr = some p) : s.dispData = p.word := by
  have hindex : s.inp.dispAddr < s.cfg.numPixels := Mem.lt_of_read_of_below hinv.pixBelow hread
  have haddr : s.dispAddr = s.inp.dispAddr := State.dispAddr_of_lt hindex
  rw [State.dispData, if_pos ⟨hphase, haddr ▸ hindex⟩, State.pixel, haddr, hread, Option.getD_some]

/-- R54: the payload bytes of a coordinate of the matrix, where the whole payload stands in PBUF. -/
theorem State.HoldsPayload.exists_triple {s : State} (h : s.HoldsPayload) {x y : Nat} (hx : x < s.cfg.width)
    (hy : y < s.cfg.height) :
    ∃ r g b : Byte,
      Mem.read s.pbuf (3 * s.cfg.pixelNumber x y) = some r ∧
      Mem.read s.pbuf (3 * s.cfg.pixelNumber x y + 1) = some g ∧
      Mem.read s.pbuf (3 * s.cfg.pixelNumber x y + 2) = some b ∧ s.payloadTriple x y = ⟨r, g, b⟩ := by
  have hnumber := Cfg.pixelNumber_lt hx hy
  have hdata := s.cfg.dataLength_eq
  obtain ⟨r, hr⟩ := Option.ne_none_iff_exists'.1 (h (3 * s.cfg.pixelNumber x y) (by omega))
  obtain ⟨g, hg⟩ := Option.ne_none_iff_exists'.1 (h (3 * s.cfg.pixelNumber x y + 1) (by omega))
  obtain ⟨b, hb⟩ := Option.ne_none_iff_exists'.1 (h (3 * s.cfg.pixelNumber x y + 2) (by omega))
  exact ⟨r, g, b, hr, hg, hb, by simp [State.payloadTriple, State.pbufByte, hr, hg, hb]⟩

/-- Settles O43: in PRESENT the invariant gives what PIX lists at the index (R149), and PBUF the three bytes of it. -/
theorem displayReadsPresentedImage : Obligations.DisplayReadsPresentedImage := by
  intro s x y hinv hphase hx hy haddr
  have hpayload : s.HoldsPayload := hinv.complete (.inr (.inr hphase))
  obtain ⟨r, g, b, hr, hg, hb, htriple⟩ := hpayload.exists_triple hx hy
  have hread := hinv.presented hphase x y hx hy
  rw [← haddr, htriple] at hread
  refine ⟨r, g, b, hr, hg, hb, ?_⟩
  calc s.outputs.dispData = ((corrLut (s.cfg.region x y)).permute ⟨r, g, b⟩).word :=
        State.dispData_of_read hinv hphase hread
    _ = if s.cfg.region x y then g ++ r ++ b else r ++ g ++ b := Pixel.word_permute_corrLut ..
    _ = _ := by simp [Cfg.region]

/-! ### Overflow of the input queue -/

theorem State.willOverflow_iff (s : State) :
    s.willOverflow = true ↔
      ∃ d, s.inqDepth = some d ∧ (s.sched.headD CycleIn.idle).arrivals ≠ [] ∧
        d < s.inq.length + (s.sched.headD CycleIn.idle).arrivals.length := by
  rw [State.willOverflow, State.overflows]
  cases hdepth : s.latch.inqDepth with
  | none => simp [show s.inqDepth = none from hdepth]
  | some d => simp [show s.inqDepth = some d from hdepth]

theorem step_of_willOverflow {s : State} (hv : s.cfg.valid = true) (ho : s.willOverflow = true) :
    step s = .fault .inqOverflow := by
  simp [step, hv, ho]

/-- R13: what an operation can answer: a next state, or the fault of an access of its own. -/
inductive OperationOutcome : Out → Prop
  | next (t : State) : OperationOutcome (.next t)
  | noByteOffered : OperationOutcome (.fault .noByteOffered)
  | pbufRange : OperationOutcome (.fault .pbufRange)
  | pixRange : OperationOutcome (.fault .pixRange)

section
variable {s : State}

theorem OperationOutcome.takeByte {k : Byte → State → Out} (hk : ∀ b u, OperationOutcome (k b u)) :
    OperationOutcome (s.takeByte k) := by
  unfold State.takeByte
  split
  · exact .noByteOffered
  · exact hk _ _

theorem OperationOutcome.writePbuf {o : Nat} {b : Byte} {k : State → Out} (hk : ∀ u, OperationOutcome (k u)) :
    OperationOutcome (s.writePbuf o b k) := by
  unfold State.writePbuf
  split
  · exact hk _
  · exact .pbufRange

theorem OperationOutcome.readPbuf3 {a : Nat} {k : Pixel → Out} (hk : ∀ q, OperationOutcome (k q)) :
    OperationOutcome (s.readPbuf3 a k) := by
  unfold State.readPbuf3
  split
  · exact hk _
  · exact .pbufRange

theorem OperationOutcome.writePix {i : Nat} {q : Pixel} {k : State → Out} (hk : ∀ u, OperationOutcome (k u)) :
    OperationOutcome (s.writePix i q k) := by
  unfold State.writePix
  split
  · exact hk _
  · exact .pixRange

theorem OperationOutcome.readPix {i : Nat} {k : Pixel → Out} (hk : ∀ q, OperationOutcome (k q)) :
    OperationOutcome (s.readPix i k) := by
  unfold State.readPix
  split
  · exact hk _
  · exact .pixRange

end

theorem exec_operationOutcome (i : Instr) (s : State) : OperationOutcome (exec i s) := by
  cases i with
  | s1Miss => simp only [exec, execS1Miss]; exact .takeByte fun _ _ => .next _
  | s1Hit => simp only [exec, execS1Hit]; exact .takeByte fun _ _ => .next _
  | s2Again => simp only [exec, execS2Again]; exact .takeByte fun _ _ => .next _
  | s2Start => simp only [exec, execS2Start]; exact .takeByte fun _ _ => .next _
  | s2Miss => simp only [exec, execS2Miss]; exact .takeByte fun _ _ => .next _
  | rpStore => simp only [exec, execRpStore]; exact .takeByte fun _ _ => .writePbuf fun _ => .next _
  | rpLast => simp only [exec, execRpLast]; exact .takeByte fun _ _ => .writePbuf fun _ => .next _
  | mwWrpix => simp only [exec, execMwWrpix]; exact .readPbuf3 fun _ => .writePix fun _ => .next _
  | mwWrlast => simp only [exec, execMwWrlast]; exact .readPbuf3 fun _ => .writePix fun _ => .next _
  | mwSwap => simp only [exec, execMwSwap]; exact .readPix fun _ => .writePix fun _ => .next _
  | mwSwlast => simp only [exec, execMwSwlast]; exact .readPix fun _ => .writePix fun _ => .next _
  | _ => exact .next _

/-- U1: an overflow is the step's fault, never an operation's. -/
theorem exec_ne_inqOverflow (i : Instr) (s : State) : exec i s ≠ .fault .inqOverflow := by
  intro h
  have houtcome := exec_operationOutcome i s
  rw [h] at houtcome
  cases houtcome

/-- Settles O9: an overflow ends the step before any operation runs, and no operation has that fault. -/
theorem inputOverflowEndsRun : Obligations.InputOverflowEndsRun := by
  intro s hvalid
  rw [← s.willOverflow_iff]
  refine ⟨step_of_willOverflow hvalid, fun hfault => ?_⟩
  by_contra hfits
  rw [step_of_op hvalid (Bool.eq_false_iff.2 hfits) s.beginCycle.op_eq] at hfault
  exact exec_ne_inqOverflow _ _ hfault

end Machine

end Sys2Proof

/-! PROOFS of the family 30_encoding: the dispatch vector's bits, the decoder, placed vectors, field codes and byte
classes, the pure decoder, payload offsets, the frame on the wire, and junk in SEEK1. -/

namespace Sys2Proof

/-! ### The dispatch vector and its word (R83, R87) -/

@[simp] theorem Phase.code_ofCode (c : BitVec 3) : (Phase.ofCode c).code = c := by
  revert c
  decide

theorem getLsbD_of_toNat {n : Nat} {w : BitVec n} {i : Nat} {b : Bool} (h : w.toNat / 2 ^ i % 2 = b.toNat) :
    w.getLsbD i = b := by
  rw [BitVec.getLsbD, Nat.testBit_eq_decide_div_mod_eq, h]
  cases b <;> rfl

theorem Sel.field_bounds (x : Sel) :
    x.phase.toNat < 8 ∧ x.rst.toNat ≤ 1 ∧ x.v.toNat ≤ 1 ∧ x.m1.toNat ≤ 1 ∧ x.m2.toNat ≤ 1 ∧ x.exp.toNat ≤ 1 ∧
      x.lst.toNat ≤ 1 ∧ x.done.toNat ≤ 1 ∧ x.cz.toNat ≤ 1 :=
  ⟨x.phase.isLt, x.rst.toNat_le, x.v.toNat_le, x.m1.toNat_le, x.m2.toNat_le, x.exp.toNat_le, x.lst.toNat_le,
    x.done.toNat_le, x.cz.toNat_le⟩

/-- R87: the fields' weights leave no carry, so nothing is lost in 11 bits. -/
theorem Sel.toNat_pack (x : Sel) :
    x.pack.toNat =
      x.rst.toNat * 0x400 + x.phase.toNat * 0x080 + x.v.toNat * 0x040 + x.m1.toNat * 0x020 +
        x.m2.toNat * 0x010 + x.exp.toNat * 0x008 + x.lst.toNat * 0x004 + x.done.toNat * 0x002 +
        x.cz.toNat * 0x001 := by
  rw [Sel.pack, BitVec.toNat_ofNat, Nat.mod_eq_of_lt]
  have hbounds := x.field_bounds
  omega

theorem Sel.unpack_pack (x : Sel) : Sel.unpack x.pack = x := by
  have hbounds := x.field_bounds
  have hphase : x.pack.extractLsb' 7 3 = x.phase := by
    apply BitVec.eq_of_toNat_eq
    rw [BitVec.extractLsb'_toNat, Nat.shiftRight_eq_div_pow, x.toNat_pack]
    omega
  simp only [Sel.unpack, hphase]
  congr 1 <;> apply getLsbD_of_toNat <;> rw [x.toNat_pack] <;> omega

theorem Sel.pack_unpack (w : BitVec 11) : (Sel.unpack w).pack = w := by
  apply BitVec.eq_of_toNat_eq
  have hbound : w.toNat < 2 ^ 11 := w.isLt
  rw [Sel.toNat_pack]
  simp only [Sel.unpack, BitVec.getLsbD, Nat.toNat_testBit, BitVec.extractLsb'_toNat, Nat.shiftRight_eq_div_pow,
    Nat.reducePow, Nat.div_one]
  omega

/-! ### The decoder (R89) -/

/-- R89: every vector is decoded, and to the operation its fields name in words. -/
theorem decodeSel_eq (w : BitVec 11) : decodeSel w = some (Sel.unpack w).operation := by
  have h := decodeSel_pack_code (Sel.unpack w).rst (Phase.ofCode (Sel.unpack w).phase) (Sel.unpack w).v
    (Sel.unpack w).m1 (Sel.unpack w).m2 (Sel.unpack w).exp (Sel.unpack w).lst (Sel.unpack w).done (Sel.unpack w).cz
  rw [Phase.code_ofCode] at h
  calc decodeSel w = decodeSel (Sel.unpack w).pack := by rw [Sel.pack_unpack]
    _ = some (Sel.unpack w).operation := h

theorem Instr.mem_all (i : Instr) : i ∈ Instr.all := by
  cases i <;> decide

/-- R89: a row's match bits are among those it looks at. -/
theorem Instr.matchBits_and_maskBits (i : Instr) : i.matchBits &&& i.maskBits = i.matchBits := by
  cases i <;> rfl

/-- R89: two different rows disagree on a bit that both look at. -/
theorem Instr.eq_of_rows_agree {i j : Instr} (h : i.matchBits &&& j.maskBits = j.matchBits &&& i.maskBits) :
    i = j := by
  have hrows : ∀ i ∈ Instr.all, ∀ j ∈ Instr.all,
      i.matchBits &&& j.maskBits = j.matchBits &&& i.maskBits → i = j := by decide
  exact hrows i i.mem_all j j.mem_all h

/-- R89: no vector matches two rows, so the rows need no priority order. -/
theorem Instr.eq_of_matches {w : BitVec 11} {i j : Instr} (hi : w &&& i.maskBits = i.matchBits)
    (hj : w &&& j.maskBits = j.matchBits) : i = j := by
  apply Instr.eq_of_rows_agree
  rw [← hi, ← hj, BitVec.and_assoc, BitVec.and_assoc, BitVec.and_comm i.maskBits]

theorem decodeSel_iff (w : BitVec 11) (i : Instr) :
    decodeSel w = some i ↔ w &&& i.maskBits = i.matchBits := by
  have hmatches : ∀ {j}, decodeSel w = some j → w &&& j.maskBits = j.matchBits := fun hj =>
    beq_iff_eq.1 (List.find?_some (p := fun j : Instr => j.selects w) hj)
  refine ⟨hmatches, fun hi => ?_⟩
  rw [Instr.eq_of_matches hi (hmatches (decodeSel_eq w))]
  exact decodeSel_eq w

theorem encodeWith_and_maskBits (i : Instr) (x : BitVec 11) : encodeWith i x &&& i.maskBits = i.matchBits := by
  rw [encodeWith, BitVec.and_or_distrib_right, Instr.matchBits_and_maskBits, BitVec.and_assoc]
  simp

theorem decodeSel_encodeWith (i : Instr) (x : BitVec 11) : decodeSel (encodeWith i x) = some i :=
  (decodeSel_iff _ i).2 (encodeWith_and_maskBits i x)

/-- A vector of an operation is its encoding with the vector's own bits where the row ignores them. -/
theorem encodeWith_of_decodeSel {i : Instr} {w : BitVec 11} (h : decodeSel w = some i) : encodeWith i w = w := by
  rw [encodeWith, ← (decodeSel_iff w i).1 h, ← BitVec.and_or_distrib_left,
    BitVec.not_or_self, BitVec.and_allOnes]

/-- R87: a vector written as a table word of at least 11 bits decodes as the vector. -/
theorem decodeTableWord_toNat {nbits : Nat} (h : 11 ≤ nbits) (w : BitVec 11) :
    decodeTableWord nbits w.toNat = decodeSel w := by
  rw [decodeTableWord, decode, if_neg (by omega), if_neg (by omega), BitVec.ofNat_toNat, BitVec.setWidth_eq,
    decodeSel_eq]
  rfl

/-- R87: SEL has no bit above bit 10. -/
theorem decodeTableWord_of_bitAboveTen (nbits : Nat) {w : Nat} (h : 2 ^ 11 ≤ w) : decodeTableWord nbits w = none := by
  rw [decodeTableWord, decode]
  by_cases hbits : nbits < 11
  · rw [if_pos hbits]
    rfl
  · rw [if_neg hbits, if_pos h]
    rfl

/-- A table word that decodes is read as its low 11 bits. -/
theorem decodeSel_of_decodeTableWord {nbits w : Nat} {i : Instr} (h : decodeTableWord nbits w = some i) :
    decodeSel (BitVec.ofNat 11 w) = some i := by
  rw [decodeTableWord, decode, decodeSel_eq] at h
  rw [decodeSel_eq]
  split at h
  · cases h
  · split at h
    · cases h
    · exact h

/-- Settles O2: `encodeWith` puts the row's match bits where its mask looks, which is all the decoder asks
(`decodeSel_iff`). -/
theorem decodeInvertsEncode : Obligations.DecodeInvertsEncode := by
  refine ⟨decodeSel_encodeWith, fun i w h => ⟨w, encodeWith_of_decodeSel h⟩, fun i x nbits hbits => ?_,
    fun nbits w habove => decodeTableWord_of_bitAboveTen nbits habove⟩
  rw [decodeTableWord_toNat hbits, decodeSel_encodeWith]

/-! ### The operation map (R89) -/

/-- R89, column "PHASE": where an operation is selected, if in one PHASE only. -/
def Instr.homePhase : Instr → Option Phase
  | .s1Wait | .s1Miss | .s1Hit => some .seek1
  | .s2Wait | .s2Again | .s2Start | .s2Miss => some .seek2
  | .rpWait | .rpStore | .rpLast | .rpTimeout => some .read
  | .mwWrpix | .mwWrlast => some .apply
  | .mwSwap | .mwSwlast => some .correct
  | .mwHold | .mwDone => some .present
  | .reset | .illRecover => none

namespace Machine

theorem homePhase_of_mem_operationsOf {p : Phase} {i : Instr} (h : i ∈ operationsOf p) :
    i.homePhase = some p ∨ i.homePhase = none := by
  have hall : ∀ j ∈ operationsOf p, j.homePhase = some p ∨ j.homePhase = none := by
    cases p <;> decide
  exact hall i h

theorem State.phase_of_op {s : State} {i : Instr} {p : Phase} (h : s.op = some i) (hi : i.homePhase = some p) :
    s.phase = p := by
  have hreset : i ≠ .reset := by
    rintro rfl
    cases hi
  have hhome := homePhase_of_mem_operationsOf (State.mem_operationsOf_of_op h hreset)
  simpa [hi, eq_comm] using hhome

/-- R89, column "next PHASE". -/
def nextPhase (s : State) : Instr → Phase
  | .reset | .s1Wait | .s1Miss | .s2Miss | .rpTimeout | .illRecover | .mwDone => .seek1
  | .s1Hit | .s2Wait | .s2Again => .seek2
  | .s2Start | .rpWait | .rpStore => .read
  | .rpLast | .mwWrpix => .apply
  | .mwWrlast => if s.condCz then .present else .correct
  | .mwSwap => .correct
  | .mwSwlast | .mwHold => .present

theorem exec_phase {s t : State} {i : Instr} (hop : s.op = some i) (h : exec i s = .next t) :
    t.phase = nextPhase s i := by
  have hhome {p : Phase} : i.homePhase = some p → s.phase = p := State.phase_of_op hop
  cases i with
  | reset => rw [execReset_next h]; rfl
  | s1Wait => rw [execS1Wait_next h]; exact hhome rfl
  | s1Miss => obtain ⟨_, _, -, rfl⟩ := execS1Miss_next h; rfl
  | s1Hit => obtain ⟨_, _, -, rfl⟩ := execS1Hit_next h; rfl
  | s2Wait => rw [execS2Wait_next h]; exact hhome rfl
  | s2Again => obtain ⟨_, _, -, rfl⟩ := execS2Again_next h; rfl
  | s2Start => obtain ⟨_, _, -, rfl⟩ := execS2Start_next h; rfl
  | s2Miss => obtain ⟨_, _, -, rfl⟩ := execS2Miss_next h; rfl
  | rpWait => rw [execRpWait_next h]; exact hhome rfl
  | rpStore => obtain ⟨_, _, -, -, rfl⟩ := execRpStore_next h; exact hhome rfl
  | rpLast => obtain ⟨_, _, -, -, rfl⟩ := execRpLast_next h; rfl
  | rpTimeout => rw [execRpTimeout_next h]; rfl
  | illRecover => rw [execIllRecover_next h]; rfl
  | mwWrpix => obtain ⟨-, -, rfl⟩ := execMwWrpix_next h; exact hhome rfl
  | mwWrlast => obtain ⟨-, -, rfl⟩ := execMwWrlast_next h; simp [nextPhase, State.condCz]
  | mwSwap => obtain ⟨-, rfl⟩ := execMwSwap_next h; exact hhome rfl
  | mwSwlast => obtain ⟨-, rfl⟩ := execMwSwlast_next h; rfl
  | mwHold => rw [execMwHold_next h]; exact hhome rfl
  | mwDone => rw [execMwDone_next h]; rfl

/-- Settles O1: a vector matches a row exactly when it decodes to it (`decodeSel_iff`), and every vector decodes to one
operation (`decodeSel_eq`); the next PHASE is `exec_phase`. -/
theorem operationMapPartitionsAllVectors : Obligations.OperationMapPartitionsAllVectors := by
  refine ⟨rfl, fun w => ⟨(Sel.unpack w).operation, ?_, fun j hj => ?_⟩, fun s i => decodeSel_iff s.sel.pack i,
    fun s t i hop hexec => ?_⟩
  · exact (decodeSel_iff w _).1 (decodeSel_eq w)
  · exact Option.some.inj (((decodeSel_iff w j).2 hj).symm.trans (decodeSel_eq w))
  · rw [exec_phase hop hexec]
    cases i <;> rfl

end Machine

/-! ### The bits of the dispatch vector (R88) -/

/-- On a field `g` that its row looks at, a vector has the row's match bits. -/
theorem and_eq_of_decodeSel {w g : BitVec 11} {i : Instr} (h : decodeSel w = some i) (hg : i.maskBits &&& g = g) :
    w &&& g = i.matchBits &&& g :=
  calc w &&& g = w &&& (i.maskBits &&& g) := by rw [hg]
    _ = i.matchBits &&& g := by rw [← BitVec.and_assoc, (decodeSel_iff w i).1 h]

theorem bitVec_and_xor_distrib_right {n : Nat} (x y z : BitVec n) : (x ^^^ y) &&& z = (x &&& z) ^^^ (y &&& z) :=
  BitVec.eq_of_toNat_eq (by simp [Nat.and_xor_distrib_right])

/-- Bits that the row of a vector ignores can be flipped. -/
theorem decodeSel_xor_of_ignored {w f : BitVec 11} (h : ∀ i, decodeSel w = some i → f &&& i.maskBits = 0) :
    decodeSel (w ^^^ f) = decodeSel w := by
  have hop := decodeSel_eq w
  rw [hop, decodeSel_iff, bitVec_and_xor_distrib_right, h _ hop, (decodeSel_iff w _).1 hop]
  exact BitVec.xor_zero

/-- Bits that only rows with one of the values `vs` in the field `g` look at can be flipped in every other vector. -/
theorem decodeSel_xor_of_field {f g : BitVec 11} {vs : List (BitVec 11)}
    (hrows : ∀ i ∈ Instr.all, f &&& i.maskBits = 0 ∨ (i.maskBits &&& g = g ∧ i.matchBits &&& g ∈ vs))
    {w : BitVec 11} (hw : w &&& g ∉ vs) : decodeSel (w ^^^ f) = decodeSel w := by
  refine decodeSel_xor_of_ignored fun i hi => (hrows i i.mem_all).resolve_right ?_
  rintro ⟨hlooks, hvalue⟩
  exact hw (and_eq_of_decodeSel hi hlooks ▸ hvalue)

theorem decodeSel_flip_m1 {w : BitVec 11} (h : w &&& 0x040#11 = 0) : decodeSel (w ^^^ 0x020#11) = decodeSel w :=
  decodeSel_xor_of_field (g := 0x040#11) (vs := [0x040#11]) (by decide) (by simp [h])

theorem decodeSel_flip_m2 {w : BitVec 11} (h : w &&& 0x040#11 = 0) : decodeSel (w ^^^ 0x010#11) = decodeSel w :=
  decodeSel_xor_of_field (g := 0x040#11) (vs := [0x040#11]) (by decide) (by simp [h])

theorem decodeSel_flip_exp {w : BitVec 11} (h : w &&& 0x380#11 ≠ 0x100#11) :
    decodeSel (w ^^^ 0x008#11) = decodeSel w :=
  decodeSel_xor_of_field (g := 0x380#11) (vs := [0x100#11]) (by decide) (by simp [h])

theorem decodeSel_flip_lst {w : BitVec 11} (hread : w &&& 0x380#11 ≠ 0x100#11) (happly : w &&& 0x380#11 ≠ 0x180#11)
    (hcorrect : w &&& 0x380#11 ≠ 0x200#11) : decodeSel (w ^^^ 0x004#11) = decodeSel w :=
  decodeSel_xor_of_field (g := 0x380#11) (vs := [0x100#11, 0x180#11, 0x200#11]) (by decide)
    (by simp [hread, happly, hcorrect])

namespace Machine

/-! Each bit of the word is the field of `State.sel`. -/

theorem State.condV_iff (s : State) : s.condV = true ↔ s.inq ≠ [] := by
  simp [State.condV, State.rxValid]

theorem State.condM1_of_cons {s : State} {b : Byte} {rest : List Byte} (h : s.inq = b :: rest) :
    s.condM1 = decide (b = s.cfg.marker1) := by
  simp [State.condM1, State.rxValid, State.rxData, h]

theorem State.condM2_of_cons {s : State} {b : Byte} {rest : List Byte} (h : s.inq = b :: rest) :
    s.condM2 = decide (b = s.cfg.marker2) := by
  simp [State.condM2, State.rxValid, State.rxData, h]

theorem State.condExp_iff (s : State) : s.condExp = true ↔ s.phase = .read ∧ s.tmr = s.cfg.timeoutCycles := by
  simp [State.condExp, State.expired]

theorem State.condLst_eq_false {s : State} (hread : s.phase ≠ .read) (happly : s.phase ≠ .apply)
    (hcorrect : s.phase ≠ .correct) : s.condLst = false := by
  unfold State.condLst
  split
  · next h => exact absurd h hread
  · next h => exact absurd h happly
  · next h => exact absurd h hcorrect
  · rfl

/-- Settles O4: a flipped bit is one the vector's row ignores (`decodeSel_xor_of_field`), and each bit of the word is the
field of `State.sel` it encodes (`Sel.unpack_pack`). -/
theorem dispatchVectorBits : Obligations.DispatchVectorBits := by
  refine ⟨fun w => ⟨fun hv => ⟨decodeSel_flip_m1 hv, decodeSel_flip_m2 hv⟩, decodeSel_flip_exp, decodeSel_flip_lst⟩,
    fun s => ?_⟩
  have hsel : Sel.unpack s.sel.pack = s.sel := s.sel.unpack_pack
  have hv : s.sel.pack.getLsbD 6 = s.condV := congrArg Sel.v hsel
  have hm1 : s.sel.pack.getLsbD 5 = s.condM1 := congrArg Sel.m1 hsel
  have hm2 : s.sel.pack.getLsbD 4 = s.condM2 := congrArg Sel.m2 hsel
  have hexp : s.sel.pack.getLsbD 3 = s.condExp := congrArg Sel.exp hsel
  have hlst : s.sel.pack.getLsbD 2 = s.condLst := congrArg Sel.lst hsel
  have hcz : s.sel.pack.getLsbD 0 = s.condCz := congrArg Sel.cz hsel
  rw [hv, hm1, hm2, hexp, hlst, hcz]
  refine ⟨congrArg Sel.rst hsel, congrArg Sel.phase hsel, s.condV_iff, fun b rest hq => ?_, s.condExp_iff,
    fun hphase => ?_, fun hphase => ?_, fun hphase => ?_, State.condLst_eq_false, congrArg Sel.done hsel,
    decide_eq_true_iff⟩
  · rw [State.condM1_of_cons hq, State.condM2_of_cons hq]
    exact ⟨decide_eq_true_iff, decide_eq_true_iff⟩
  · rw [State.condLst_of_read hphase]
    omega
  · rw [State.condLst_of_apply hphase]
    omega
  · rw [State.condLst_of_correct hphase]
    omega

/-- R88: `m1` and `m2` say what byte is offered, so not both are set. -/
theorem State.condM1_and_condM2 {s : State} (hv : s.cfg.valid = true) : (s.condM1 && s.condM2) = false := by
  have hmarkers := Cfg.valid.markers hv
  cases hq : s.inq with
  | nil => simp [State.condM1, State.rxValid, hq]
  | cons b rest =>
    rw [State.condM1_of_cons hq, State.condM2_of_cons hq, ← Bool.decide_and, decide_eq_false_iff_not]
    rintro ⟨h1, h2⟩
    exact hmarkers (h1.symm.trans h2)

/-- Settles O5: each clause of `Sel.wellFormed` from the definition of the bit it restricts (R88). -/
theorem dispatchVectorsWellFormed : Obligations.DispatchVectorsWellFormed := by
  intro s hvalid
  have hmarkers : (s.condM1 && s.condM2) = false := State.condM1_and_condM2 hvalid
  have hoffered : (s.condV || (!s.condM1 && !s.condM2)) = true := by
    cases hv : s.rxValid <;> simp [State.condV, State.condM1, State.condM2, hv]
  have hexp : (!s.condExp || s.phase.code == 2) = true := by
    cases hphase : s.phase <;> simp [State.condExp, State.expired, hphase, Phase.code]
  have hlst : (!s.condLst || s.phase.code == 2 || s.phase.code == 3 || s.phase.code == 4) = true := by
    cases hphase : s.phase <;> simp [State.condLst, hphase, Phase.code]
  simp only [Sel.wellFormed, State.sel, hmarkers, hoffered, hexp, hlst]
  rfl

/-! ### Field codes, worked vectors, byte classes (R83 to R86) -/

end Machine

/-- R85: the three selectors of an entry, read back from its code. -/
theorem LutEntry.ofCode_code (e : LutEntry) :
    Channel.ofCode (e.code.extractLsb' 4 2) = some e.selR ∧
      Channel.ofCode (e.code.extractLsb' 2 2) = some e.selG ∧
      Channel.ofCode (e.code.extractLsb' 0 2) = some e.selB := by
  obtain ⟨r, g, b⟩ := e
  cases r <;> cases g <;> cases b <;> decide

theorem Phase.legal_ofCode (c : BitVec 3) : (Phase.ofCode c).legal = false ↔ c = 6 ∨ c = 7 := by
  revert c
  decide

/-- Settles O6: the codes as the tables list them, and read back by `Phase.code_ofCode` and `LutEntry.ofCode_code`. -/
theorem fieldCodes : Obligations.FieldCodes :=
  ⟨rfl, rfl, rfl, rfl, rfl, rfl, fun c => ⟨Phase.code_ofCode c, Phase.legal_ofCode c⟩, rfl, rfl,
    LutEntry.ofCode_code, rfl, rfl, rfl, rfl, rfl, rfl⟩

/-- Settles O3: the decoder run on the spec's numerals. -/
theorem exampleVectorsDecode : Obligations.ExampleVectorsDecode := by
  unfold Obligations.ExampleVectorsDecode
  decide

theorem Cfg.classify_eq_m1_iff (c : Cfg) (b : Byte) : c.classify b = .m1 ↔ b = c.marker1 := by
  by_cases h1 : b = c.marker1
  · simp [Cfg.classify, h1]
  · by_cases h2 : b = c.marker2 <;> simp [Cfg.classify, h1, h2]

/-- R10 (b): the second test decides, since the markers differ. -/
theorem Cfg.classify_eq_m2_iff {c : Cfg} (hv : c.valid = true) (b : Byte) : c.classify b = .m2 ↔ b = c.marker2 := by
  by_cases h1 : b = c.marker1
  · simp [Cfg.classify, h1, Cfg.valid.markers hv]
  · simp [Cfg.classify, h1]

theorem Cfg.classify_eq_other_iff (c : Cfg) (b : Byte) :
    c.classify b = .other ↔ b ≠ c.marker1 ∧ b ≠ c.marker2 := by
  by_cases h1 : b = c.marker1
  · simp [Cfg.classify, h1]
  · simp [Cfg.classify, h1]

/-- Settles O31: one lemma per class. -/
theorem byteClasses : Obligations.ByteClasses :=
  fun c b hvalid => ⟨c.classify_eq_m1_iff b, Cfg.classify_eq_m2_iff hvalid b, c.classify_eq_other_iff b⟩

/-! ### Payload offsets (R81) -/

/-- R81: a payload pixel number is the one of its column and row. -/
theorem Cfg.pixelNumber_column_row (c : Cfg) (k : Nat) : c.pixelNumber (c.column k) (c.row k) = k :=
  Nat.div_add_mod' k c.width

theorem Cfg.column_lt {c : Cfg} (hv : c.valid = true) (k : Nat) : c.column k < c.width :=
  Nat.mod_lt k (Cfg.valid.width_pos hv)

theorem Cfg.row_lt {c : Cfg} {k : Nat} (h : k < c.numPixels) : c.row k < c.height :=
  Nat.div_lt_of_lt_mul h

theorem Cfg.column_pixelNumber {c : Cfg} {x : Nat} (hx : x < c.width) (y : Nat) :
    c.column (c.pixelNumber x y) = x := by
  simp [Cfg.column, Cfg.pixelNumber, Nat.mod_eq_of_lt hx]

theorem Cfg.row_pixelNumber {c : Cfg} {x : Nat} (hx : x < c.width) (y : Nat) : c.row (c.pixelNumber x y) = y := by
  rw [Cfg.row, Cfg.pixelNumber, Nat.mul_comm, Nat.mul_add_div (Nat.zero_lt_of_lt hx), Nat.div_eq_of_lt hx,
    Nat.add_zero]

theorem Cfg.payloadPixel_payloadOffset (c : Cfg) (x y : Nat) {ch : Nat} (h : ch < 3) :
    payloadPixel (c.payloadOffset x y ch) = c.pixelNumber x y := by
  simp only [payloadPixel, Cfg.payloadOffset]
  omega

theorem Cfg.payloadChannel_payloadOffset (c : Cfg) (x y : Nat) {ch : Nat} (h : ch < 3) :
    payloadChannel (c.payloadOffset x y ch) = ch := by
  simp only [payloadChannel, Cfg.payloadOffset]
  omega

/-- Settles O47: an offset is three times its pixel number and a channel, and a pixel number is its row times WIDTH and a
column. -/
theorem payloadOffsetsDecompose : Obligations.PayloadOffsetsDecompose := by
  intro c hvalid
  have hdata := c.dataLength_eq
  refine ⟨fun o ho => ?_, fun x y ch hx hy hch => ?_⟩
  · have hpixel : payloadPixel o < c.numPixels := by
      unfold payloadPixel
      omega
    refine ⟨hpixel, Nat.mod_lt o (by decide), Cfg.column_lt hvalid _, Cfg.row_lt hpixel, ?_⟩
    rw [Cfg.payloadOffset, Cfg.pixelNumber_column_row]
    exact Nat.div_add_mod o 3
  · have hnumber := Cfg.pixelNumber_lt hx hy
    have hoffset : c.payloadOffset x y ch < c.dataLength := by
      unfold Cfg.payloadOffset
      omega
    rw [c.payloadPixel_payloadOffset x y hch]
    exact ⟨hoffset, c.payloadChannel_payloadOffset x y hch, Cfg.column_pixelNumber hx y, Cfg.row_pixelNumber hx y⟩

/-! ### The bytes of a frame (R57, R58, R80) -/

theorem payloadBytes_cons (p : Pixel) (ps : List Pixel) :
    payloadBytes (p :: ps) = p.r :: p.g :: p.b :: payloadBytes ps := rfl

theorem length_payloadBytes (ps : List Pixel) : (payloadBytes ps).length = 3 * ps.length := by
  induction ps with
  | nil => rfl
  | cons p ps ih =>
    simp only [payloadBytes_cons, List.length_cons, ih]
    omega

/-- R58: pixel `k` stands for the three payload bytes from offset `3 * k` on. -/
theorem payloadBytes_getElem? {ps : List Pixel} {k : Nat} {p : Pixel} (h : ps[k]? = some p) :
    (payloadBytes ps)[3 * k]? = some p.r ∧ (payloadBytes ps)[3 * k + 1]? = some p.g ∧
      (payloadBytes ps)[3 * k + 2]? = some p.b := by
  induction ps generalizing k with
  | nil => simp at h
  | cons q ps ih =>
    cases k with
    | zero =>
      obtain rfl : q = p := by simpa using h
      exact ⟨rfl, rfl, rfl⟩
    | succ k => exact ih h

/-- R80: the payload of a frame begins after its two markers. -/
theorem Cfg.frame_getElem? (c : Cfg) (payload : List Byte) (n : Nat) : (c.frame payload)[2 + n]? = payload[n]? := by
  rw [Nat.add_comm]
  rfl

namespace Machine

/-- Settles O49: a frame is two markers and `payloadBytes`, three bytes for each of the NUM_PIXELS pixels. -/
theorem frameBytesOnTheWire : Obligations.FrameBytesOnTheWire := by
  intro c ps hwf
  have hpixels : ps.length = c.numPixels := by simpa [Item.wellFormed] using hwf
  have hbytes : (Item.frame ps).bytes c = c.frame (payloadBytes ps) := rfl
  rw [hbytes]
  refine ⟨?_, rfl, rfl, fun k p hp => ?_⟩
  · rw [Cfg.frameLength, Cfg.dataLength_eq, ← hpixels, ← length_payloadBytes]
    rfl
  · simp only [Nat.add_assoc, Cfg.frame_getElem?]
    exact payloadBytes_getElem? hp

/-! ### The cycles that take a byte, and the pure decoder (R95) -/

section
variable {s : State} {b : Byte} {rest : List Byte} (hrst : s.inp.rst = false) (hq : s.inq = b :: rest)
include hrst hq

theorem State.op_of_seek1_byte (hphase : s.phase = .seek1) :
    s.op = some (if b = s.cfg.marker1 then .s1Hit else .s1Miss) := by
  have hv : s.condV = true := s.condV_iff.2 (by simp [hq])
  simp [State.op_eq, State.operation_eq, hrst, hphase, hv, State.condM1_of_cons hq]

theorem State.op_of_seek2_byte (hphase : s.phase = .seek2) :
    s.op = some (if b = s.cfg.marker2 then .s2Start else if b = s.cfg.marker1 then .s2Again else .s2Miss) := by
  have hv : s.condV = true := s.condV_iff.2 (by simp [hq])
  simp [State.op_eq, State.operation_eq, hrst, hphase, hv, State.condM1_of_cons hq, State.condM2_of_cons hq]

theorem State.op_of_read_byte (hphase : s.phase = .read) (htmr : s.tmr ≠ s.cfg.timeoutCycles) :
    s.op = some (if s.rxcnt + 1 = s.cfg.dataLength then .rpLast else .rpStore) := by
  have hv : s.condV = true := s.condV_iff.2 (by simp [hq])
  simp [State.op_eq, State.operation_eq, hrst, hphase, hv, State.condExp_of_read hphase, htmr,
    State.condLst_of_read hphase]

end

section
variable {s : State} {b : Byte} {rest : List Byte} (hq : s.inq = b :: rest)
include hq

theorem exec_s1Hit_of_byte : exec .s1Hit s = .next { s with inq := rest, phase := .seek2 } := by
  rw [exec, execS1Hit, State.takeByte_cons s b rest _ hq]

theorem exec_s1Miss_of_byte : exec .s1Miss s = .next { s with inq := rest, phase := .seek1 } := by
  rw [exec, execS1Miss, State.takeByte_cons s b rest _ hq]

theorem exec_s2Again_of_byte : exec .s2Again s = .next { s with inq := rest, phase := .seek2 } := by
  rw [exec, execS2Again, State.takeByte_cons s b rest _ hq]

theorem exec_s2Start_of_byte : exec .s2Start s = .next { s with inq := rest, phase := .read, rxcnt := 0, tmr := 0 } := by
  rw [exec, execS2Start, State.takeByte_cons s b rest _ hq]

theorem exec_s2Miss_of_byte : exec .s2Miss s = .next { s with inq := rest, phase := .seek1 } := by
  rw [exec, execS2Miss, State.takeByte_cons s b rest _ hq]

theorem exec_rpStore_of_lt (hroom : s.rxcnt < s.cfg.dataLength) :
    exec .rpStore s = .next { s with
      inq := rest, pbuf := Mem.write s.pbuf s.rxcnt b, rxcnt := s.rxcnt + 1, tmr := s.tmr + 1 } := by
  rw [exec, execRpStore, State.takeByte_cons s b rest _ hq]
  exact State.writePbuf_of_lt { s with inq := rest } s.rxcnt b _ hroom

/-- R120: the last byte goes to the offset RXCNT has reached. -/
theorem exec_rpLast_of_last (hlast : s.rxcnt + 1 = s.cfg.dataLength) :
    exec .rpLast s = .next { s with
      inq := rest, pbuf := Mem.write s.pbuf s.rxcnt b
      rxcnt := 0, tmr := 0, px := 0, py := 0, phase := .apply } := by
  have hoffset : s.cfg.dataLength - 1 = s.rxcnt := by omega
  rw [exec, execRpLast, State.takeByte_cons s b rest _ hq, hoffset]
  exact State.writePbuf_of_lt { s with inq := rest } s.rxcnt b _ (by simp only; omega)

end

/-! What `fd` answers in each of its states. -/

theorem fd_seek1 (c : Cfg) (b : Byte) : fd c .seek1 b = (if b = c.marker1 then .seek2 else .seek1, .nothing) := by
  simp only [fd, Cfg.classify]
  split_ifs <;> rfl

theorem fd_seek2 {c : Cfg} (hv : c.valid = true) (b : Byte) :
    fd c .seek2 b =
      if b = c.marker2 then (.read 0, .startTimer)
      else (if b = c.marker1 then .seek2 else .seek1, .nothing) := by
  by_cases h1 : b = c.marker1
  · have h2 : b ≠ c.marker2 := h1 ▸ Cfg.valid.markers hv
    simp only [fd, Cfg.classify, if_pos h1, if_neg h2]
  · simp only [fd, Cfg.classify, if_neg h1]
    split_ifs <;> rfl

theorem fd_read (c : Cfg) (n : Nat) (b : Byte) :
    fd c (.read n) b =
      if n + 1 = c.dataLength then (.seek1, .handOver n b) else (.read (n + 1), .store n b) := rfl

/-- Settles O32: PHASE by PHASE, the cycle's operation and `fd` split on the same test of the byte or of RXCNT. -/
theorem cycleAgreesWithPureDecoder : Obligations.CycleAgreesWithPureDecoder := by
  intro s b rest hvalid hrst hready hroom hq
  rcases s.rxReady_iff.1 hready with hphase | hphase | ⟨hphase, htmr⟩
  · have hop := State.op_of_seek1_byte hrst hq hphase
    have hfd : s.fdState = .seek1 := by simp [State.fdState, hphase]
    rw [hfd, fd_seek1]
    by_cases hm1 : b = s.cfg.marker1
    · rw [if_pos hm1] at hop ⊢
      exact ⟨.s1Hit, _, hop, exec_s1Hit_of_byte hq, rfl, rfl, rfl⟩
    · rw [if_neg hm1] at hop ⊢
      exact ⟨.s1Miss, _, hop, exec_s1Miss_of_byte hq, rfl, rfl, rfl⟩
  · have hop := State.op_of_seek2_byte hrst hq hphase
    have hfd : s.fdState = .seek2 := by simp [State.fdState, hphase]
    rw [hfd, fd_seek2 hvalid]
    by_cases hm2 : b = s.cfg.marker2
    · rw [if_pos hm2] at hop ⊢
      exact ⟨.s2Start, _, hop, exec_s2Start_of_byte hq, rfl, rfl, rfl⟩
    · rw [if_neg hm2] at hop ⊢
      by_cases hm1 : b = s.cfg.marker1
      · rw [if_pos hm1] at hop ⊢
        exact ⟨.s2Again, _, hop, exec_s2Again_of_byte hq, rfl, rfl, rfl⟩
      · rw [if_neg hm1] at hop ⊢
        exact ⟨.s2Miss, _, hop, exec_s2Miss_of_byte hq, rfl, rfl, rfl⟩
  · have hop := State.op_of_read_byte hrst hq hphase htmr
    have hfd : s.fdState = .read s.rxcnt := by simp [State.fdState, hphase]
    rw [hfd, fd_read]
    by_cases hlast : s.rxcnt + 1 = s.cfg.dataLength
    · rw [if_pos hlast] at hop ⊢
      exact ⟨.rpLast, _, hop, exec_rpLast_of_last hq hlast, rfl, rfl, rfl, rfl, rfl, rfl, s.pbufByte_write _ _⟩
    · rw [if_neg hlast] at hop ⊢
      refine ⟨.rpStore, _, hop, exec_rpStore_of_lt hq hroom, rfl, ?_, rfl, s.pbufByte_write _ _⟩
      simp [State.fdState, hphase]

/-! ### Junk in SEEK1 (R94, R112) -/

/-- The first of the next `n + 1` cycles, and the `n` after it. -/
theorem State.noReset_succ {s : State} {n : Nat} (h : s.noReset (n + 1)) {t : State} (ht : t.sched = s.sched.tail) :
    (s.sched.headD CycleIn.idle).rst = false ∧ t.noReset n := by
  unfold State.noReset at h ⊢
  rw [ht]
  cases hs : s.sched with
  | nil => exact ⟨rfl, by simp⟩
  | cons c cs => simpa [hs] using h

theorem State.arriving_succ {s t : State} (ht : t.sched = s.sched.tail) (n : Nat) :
    s.arriving (n + 1) = ((s.sched.headD CycleIn.idle).arrivals.map fun a => a.byte) ++ t.arriving n := by
  unfold State.arriving
  rw [ht]
  cases s.sched with
  | nil => simp [CycleIn.idle]
  | cons c cs => simp

theorem run_succ_of_step {s u : State} (h : step s = .next u) (n : Nat) : run (n + 1) s = run n u := by
  rw [run, h]

theorem events_succ_of_step {s u : State} (h : step s = .next u) (n : Nat) :
    events (n + 1) s = cycleEvents s.beginCycle u ++ events n u := by
  rw [events, h]

/-- What a cycle in SEEK1 that does not go to PRESENT shows. -/
theorem cycleEvents_of_seek1 {s t : State} (hs : s.phase = .seek1) (ht : t.phase ≠ .present) :
    cycleEvents s t = [] := by
  have hpulse : s.outputs.errTrunc = false := by
    simp [State.outputs, State.truncationPulse, State.expired, hs]
  simp [cycleEvents, hpulse, ht]

/-- The state after a cycle in SEEK1 that takes a byte of junk, `rest` being what stood behind it. -/
def State.afterJunk (s : State) (rest : List Byte) : State :=
  { s.beginCycle with
    inq := rest ++ (s.sched.headD CycleIn.idle).arrivals.map fun a => a.byte
    phase := .seek1 }

/-- R112 as a whole step: the byte is gone, and what arrives waits behind the rest. -/
theorem step_of_junk {s : State} {b : Byte} {rest : List Byte} (hv : s.cfg.valid = true) (hdepth : s.inqDepth = none)
    (hphase : s.phase = .seek1) (hrst : (s.sched.headD CycleIn.idle).rst = false) (hq : s.inq = b :: rest)
    (hb : b ≠ s.cfg.marker1) : step s = .next (s.afterJunk rest) := by
  have hq' : s.beginCycle.inq = b :: (rest ++ (s.sched.headD CycleIn.idle).arrivals.map fun a => a.byte) := by
    rw [State.beginCycle_inq, hq, List.cons_append]
  have hop : s.beginCycle.op = some .s1Miss := by
    rw [State.op_of_seek1_byte hrst hq' hphase, s.beginCycle_cfg, if_neg hb]
  rw [step_of_op hv (s.willOverflow_unbounded hdepth) hop]
  exact exec_s1Miss_of_byte hq'

/-- Settles O50, by induction on the junk: `step_of_junk` takes one byte, and the state after it is the same but for
INQ and the environment. -/
theorem junkIsConsumedSilently : Obligations.JunkIsConsumedSilently := by
  intro s junk
  induction junk generalizing s with
  | nil =>
    intro rest _ _ hphase hq _ _
    exact ⟨s, rfl, hphase, by simp [hq, State.arriving], rfl, rfl, rfl, rfl, rfl, rfl, rfl⟩
  | cons b junk ih =>
    intro rest hvalid hdepth hphase hq hjunk hrst
    obtain ⟨hb, hjunk⟩ := List.forall_mem_cons.1 hjunk
    obtain ⟨hrst, hrsts⟩ := State.noReset_succ hrst (t := s.afterJunk (junk ++ rest)) rfl
    have hstep : step s = .next (s.afterJunk (junk ++ rest)) := step_of_junk hvalid hdepth hphase hrst hq hb
    have hshown : cycleEvents s.beginCycle (s.afterJunk (junk ++ rest)) = [] :=
      cycleEvents_of_seek1 hphase nofun
    have harriving := State.arriving_succ (s := s) (t := s.afterJunk (junk ++ rest)) rfl junk.length
    obtain ⟨t, hrun, hend, hinq, hframe⟩ :=
      ih (s.afterJunk (junk ++ rest)) (rest ++ (s.sched.headD CycleIn.idle).arrivals.map fun a => a.byte) hvalid
        hdepth rfl (List.append_assoc ..) hjunk hrsts
    refine ⟨t, (run_succ_of_step hstep _).trans hrun, hend, ?_, ?_⟩
    · rw [List.length_cons, harriving, ← List.append_assoc]
      exact hinq
    · rw [List.length_cons, events_succ_of_step hstep, hshown, List.nil_append]
      exact hframe

/-! ### Placed vectors (R87, R89, log entry 10)

Each field of the placed state, then each condition bit the vector's row looks at. -/

end Machine

/-- One of 0, 1, 2 is neither of two markers. -/
theorem Cfg.otherByte_ne (c : Cfg) : c.otherByte ≠ c.marker1 ∧ c.otherByte ≠ c.marker2 := by
  unfold Cfg.otherByte
  split
  · next h => exact ⟨h.1.symm, h.2.symm⟩
  · next h0 =>
    split
    · next h1 => exact ⟨h1.1.symm, h1.2.symm⟩
    · next h1 =>
      rw [not_and_or, not_not, not_not] at h0 h1
      rcases h0 with h0 | h0 <;> rcases h1 with h1 | h1 <;> simp_all

/-- Where the row looks at `m1`, the offered byte is `MARKER1` exactly for a vector with that bit. -/
theorem Sel.offeredByte_eq_marker1_iff {x : Sel} {c : Cfg} (hv : c.valid = true)
    (h : x.m2 = false ∨ x.phase ≠ Phase.seek2.code) : x.offeredByte c = c.marker1 ↔ x.m1 = true := by
  have hmarkers := (Cfg.valid.markers hv).symm
  have hother := c.otherByte_ne.1
  have htest : (x.m2 && (!x.m1 || x.phase == Phase.seek2.code)) = (x.m2 && !x.m1) := by
    rcases h with h | h
    · simp [h]
    · simp [beq_false_of_ne h]
  rw [Sel.offeredByte, htest]
  cases x.m1 <;> cases x.m2 <;> simp [hmarkers, hother]

/-- Where the row looks at `m2` first, the offered byte is `MARKER2` exactly for a vector with that bit. -/
theorem Sel.offeredByte_eq_marker2_iff {x : Sel} {c : Cfg} (hv : c.valid = true)
    (h : x.phase = Phase.seek2.code) : x.offeredByte c = c.marker2 ↔ x.m2 = true := by
  have hmarkers := Cfg.valid.markers hv
  have hother := c.otherByte_ne.2
  rw [Sel.offeredByte, h]
  cases x.m1 <;> cases x.m2 <;> simp [hmarkers, hother]

theorem Sel.fits_build (x : Sel) : x.fits Config.build = true := by
  have hvalid : Config.build.valid = true := by decide
  rw [Sel.fits, hvalid]
  split
  · have hpixels : 2 ≤ Config.build.numPixels := by decide
    simp [hpixels]
  · cases x.lst <;> decide
  · rfl

theorem Sel.valid_of_fits {x : Sel} {c : Cfg} (h : x.fits c = true) : c.valid = true :=
  (Bool.and_eq_true_iff.1 h).1

theorem Sel.two_pixels_of_fits {x : Sel} {c : Cfg} (h : x.fits c = true) (hp : Phase.ofCode x.phase = .apply)
    (hlst : x.lst = false) : 2 ≤ c.numPixels := by
  simpa [Sel.fits, hp, hlst, Sel.valid_of_fits h] using h

theorem Sel.region_of_fits {x : Sel} {c : Cfg} (h : x.fits c = true) (hp : Phase.ofCode x.phase = .correct) :
    (if x.lst then 1 else 2) ≤ c.corrN := by
  cases hlst : x.lst <;> simpa [Sel.fits, hp, hlst, Sel.valid_of_fits h] using h

namespace Machine

theorem State.placeCounters_cfg (s : State) (x : Sel) : (s.placeCounters x).cfg = s.cfg := by
  unfold State.placeCounters
  split <;> rfl

/-- The state whose counters `place` sets: with a configuration that has the operation. -/
def State.fitted (s : State) (x : Sel) : State :=
  if x.fits s.cfg then s else { s with cfg := Config.build }

theorem State.fits_fitted (s : State) (x : Sel) : x.fits (s.fitted x).cfg = true := by
  unfold State.fitted
  split
  · next h => exact h
  · exact x.fits_build

section
variable (s : State) (x : Sel)

theorem State.place_cfg : (s.place x).cfg = (s.fitted x).cfg := State.placeCounters_cfg _ _

theorem State.place_fits : x.fits (s.place x).cfg = true := by
  rw [State.place_cfg]
  exact s.fits_fitted x

theorem State.place_phase : (s.place x).phase = Phase.ofCode x.phase := rfl

/-- The cycle's inputs are those placed, with no byte arriving. -/
theorem State.place_inputs :
    (s.place x).sched.headD CycleIn.idle = { CycleIn.idle with rst := x.rst, done := x.done } := rfl

theorem State.place_inq_of_offered (hv : x.v = true) :
    ∃ rest, (s.place x).beginCycle.inq = x.offeredByte (s.place x).cfg :: rest :=
  ⟨_, by rw [State.beginCycle_inq, State.place_inputs]; simp only [State.place, hv]; rfl⟩

theorem State.place_inq_of_empty (hv : x.v = false) : (s.place x).beginCycle.inq = [] := by
  rw [State.beginCycle_inq, State.place_inputs]
  simp only [State.place, hv]
  rfl

theorem State.place_counters_of_read (hp : Phase.ofCode x.phase = .read) :
    (s.place x).rxcnt = (if x.lst then (s.place x).cfg.dataLength - 1 else 0) ∧
      (s.place x).tmr = if x.exp then (s.place x).cfg.timeoutCycles else (s.place x).rxcnt := by
  simp [State.place, State.placeCounters, hp]

theorem State.place_counters_of_apply (hp : Phase.ofCode x.phase = .apply) :
    (s.place x).px = (if x.lst then (s.place x).cfg.width - 1 else 0) ∧
      (s.place x).py = if x.lst then (s.place x).cfg.height - 1 else 0 := by
  simp [State.place, State.placeCounters, hp]

theorem State.place_px_of_correct (hp : Phase.ofCode x.phase = .correct) :
    (s.place x).px = if x.lst then (s.place x).cfg.corrN - 1 else 0 := by
  simp [State.place, State.placeCounters, hp]

theorem State.place_condV : (s.place x).beginCycle.condV = x.v := by
  cases hv : x.v with
  | false =>
    rw [State.condV, State.rxValid, s.place_inq_of_empty x hv]
    rfl
  | true =>
    obtain ⟨rest, hq⟩ := s.place_inq_of_offered x hv
    rw [State.condV, State.rxValid, hq]
    rfl

theorem State.place_condM1 (hv : x.v = true) (h : x.m2 = false ∨ x.phase ≠ Phase.seek2.code) :
    (s.place x).beginCycle.condM1 = x.m1 := by
  obtain ⟨rest, hq⟩ := s.place_inq_of_offered x hv
  rw [State.condM1_of_cons hq, Bool.eq_iff_iff, decide_eq_true_iff]
  exact Sel.offeredByte_eq_marker1_iff (Sel.valid_of_fits (s.place_fits x)) h

theorem State.place_condM2 (hv : x.v = true) (h : x.phase = Phase.seek2.code) :
    (s.place x).beginCycle.condM2 = x.m2 := by
  obtain ⟨rest, hq⟩ := s.place_inq_of_offered x hv
  rw [State.condM2_of_cons hq, Bool.eq_iff_iff, decide_eq_true_iff]
  exact Sel.offeredByte_eq_marker2_iff (Sel.valid_of_fits (s.place_fits x)) h

/-- R10 (d): RXCNT is below TIMEOUT_CYCLES, so a timer that has not expired can be placed with it. -/
theorem State.place_condExp (hp : Phase.ofCode x.phase = .read) : (s.place x).beginCycle.condExp = x.exp := by
  have hvalid := Sel.valid_of_fits (s.place_fits x)
  have htimeout := Cfg.valid.timeout hvalid
  have hpixels := Cfg.valid.numPixels_pos hvalid
  have hdata := (s.place x).cfg.dataLength_eq
  obtain ⟨hrxcnt, htmr⟩ := s.place_counters_of_read x hp
  rw [Bool.eq_iff_iff, State.condExp_of_read (s := (s.place x).beginCycle) hp, State.beginCycle_tmr,
    State.beginCycle_cfg, htmr, hrxcnt]
  split
  · next hexp => exact iff_of_true rfl hexp
  · next hexp => exact iff_of_false (by split <;> omega) hexp

theorem State.place_condLst_of_read (hp : Phase.ofCode x.phase = .read) :
    (s.place x).beginCycle.condLst = x.lst := by
  have hpixels := Cfg.valid.numPixels_pos (Sel.valid_of_fits (s.place_fits x))
  have hdata := (s.place x).cfg.dataLength_eq
  obtain ⟨hrxcnt, -⟩ := s.place_counters_of_read x hp
  rw [Bool.eq_iff_iff, State.condLst_of_read (s := (s.place x).beginCycle) hp, State.beginCycle_rxcnt,
    State.beginCycle_cfg, hrxcnt]
  split
  · next hlst => exact iff_of_true (by omega) hlst
  · next hlst => exact iff_of_false (by omega) hlst

/-- Two pixels are more than one, so the first is not the last. -/
theorem State.place_condLst_of_apply (hp : Phase.ofCode x.phase = .apply) :
    (s.place x).beginCycle.condLst = x.lst := by
  have hfits := s.place_fits x
  have hwidth := Cfg.valid.width_pos (Sel.valid_of_fits hfits)
  have hheight := Cfg.valid.height_pos (Sel.valid_of_fits hfits)
  obtain ⟨hpx, hpy⟩ := s.place_counters_of_apply x hp
  rw [Bool.eq_iff_iff, State.condLst_of_apply (s := (s.place x).beginCycle) hp, State.beginCycle_px,
    State.beginCycle_py, State.beginCycle_cfg, hpx, hpy]
  by_cases hlst : x.lst = true
  · rw [if_pos hlst, if_pos hlst]
    exact iff_of_true (by omega) hlst
  · rw [if_neg hlst, if_neg hlst]
    refine iff_of_false ?_ hlst
    rintro ⟨hw, hh⟩
    have hpixels := Sel.two_pixels_of_fits hfits hp (Bool.eq_false_iff.2 hlst)
    simp [Cfg.numPixels, ← hw, ← hh] at hpixels

theorem State.place_condLst_of_correct (hp : Phase.ofCode x.phase = .correct) :
    (s.place x).beginCycle.condLst = x.lst := by
  have hregion := Sel.region_of_fits (s.place_fits x) hp
  rw [Bool.eq_iff_iff, State.condLst_of_correct (s := (s.place x).beginCycle) hp, State.beginCycle_px,
    State.beginCycle_cfg, s.place_px_of_correct x hp]
  split at hregion
  · next hlst => exact iff_of_true (by rw [if_pos hlst]; omega) hlst
  · next hlst => exact iff_of_false (by rw [if_neg hlst]; omega) hlst

/-- The placed vector's operation is the next cycle's: every condition bit that decides in its PHASE is the vector's. -/
theorem State.place_operation : (s.place x).beginCycle.sel.operation = x.operation := by
  have hrst : (s.place x).beginCycle.sel.rst = x.rst := rfl
  have hphase : (s.place x).beginCycle.sel.phase = x.phase := Phase.code_ofCode x.phase
  have hoffered : (s.place x).beginCycle.sel.v = x.v := s.place_condV x
  have hdone : (s.place x).beginCycle.sel.done = x.done := rfl
  rw [Sel.operation, Sel.operation, hrst, hphase, hoffered, hdone]
  cases x.rst with
  | true => rfl
  | false =>
    cases hp : Phase.ofCode x.phase with
    | seek1 =>
      have hcode : x.phase = Phase.seek1.code := by rw [← hp, Phase.code_ofCode]
      cases hv : x.v with
      | false => rfl
      | true =>
        have hm1 : (s.place x).beginCycle.sel.m1 = x.m1 := s.place_condM1 x hv (.inr (by rw [hcode]; decide))
        rw [hm1]
    | seek2 =>
      have hcode : x.phase = Phase.seek2.code := by rw [← hp, Phase.code_ofCode]
      cases hv : x.v with
      | false => rfl
      | true =>
        have hm2 : (s.place x).beginCycle.sel.m2 = x.m2 := s.place_condM2 x hv hcode
        rw [hm2]
        cases hx : x.m2 with
        | true => rfl
        | false =>
          have hm1 : (s.place x).beginCycle.sel.m1 = x.m1 := s.place_condM1 x hv (.inl hx)
          rw [hm1]
    | read =>
      have hexp : (s.place x).beginCycle.sel.exp = x.exp := s.place_condExp x hp
      have hlst : (s.place x).beginCycle.sel.lst = x.lst := s.place_condLst_of_read x hp
      rw [hexp, hlst]
    | apply =>
      have hlst : (s.place x).beginCycle.sel.lst = x.lst := s.place_condLst_of_apply x hp
      rw [hlst]
    | correct =>
      have hlst : (s.place x).beginCycle.sel.lst = x.lst := s.place_condLst_of_correct x hp
      rw [hlst]
    | present => rfl
    | code6 => rfl
    | code7 => rfl

theorem State.place_willOverflow : (s.place x).willOverflow = false := by
  rw [Bool.eq_false_iff, ne_eq, State.willOverflow_iff, State.place_inputs]
  rintro ⟨d, -, harrivals, -⟩
  exact harrivals rfl

end

/-- Settles O10: the word's operation is the one its fields name (`decodeSel_eq`), which is the placed state's
(`State.place_operation`). -/
theorem placedVectorIsExecuted : Obligations.PlacedVectorIsExecuted := by
  intro s nbits w i hdecode
  have hi := decodeSel_of_decodeTableWord hdecode
  have hop : (s.withFetchWord nbits w).beginCycle.op = some i := by
    rw [State.op_eq, State.withFetchWord, State.place_operation, ← decodeSel_eq, hi]
  exact ⟨hop, step_of_op (Sel.valid_of_fits (s.place_fits _)) (s.place_willOverflow _) hop⟩

end Machine

end Sys2Proof

/-! PROOFS of the family 40_frame_decoder: the Frame Decoder's operations, runs of several cycles, complete reception,
the truncation trap, and a frame on its way from the stream to the presented image. -/

namespace Sys2Proof.Machine

/-! ### The outputs while the Frame Decoder runs (R31) -/

/-- R31: the PHASEs that are ready for a byte neither pulse nor request. -/
theorem State.outputs_of_rxReady {s : State} (h : s.rxReady = true) :
    s.outputs.rxReady = true ∧ s.outputs.rxFlush = false ∧ s.outputs.errTrunc = false ∧
      s.outputs.presReq = false := by
  have hpulse : s.truncationPulse = false :=
    Bool.eq_false_iff.2 fun hp => Bool.false_ne_true ((State.rxReady_of_truncationPulse hp).symm.trans h)
  have hreq : s.presReq = false := by
    rw [Bool.eq_false_iff, ne_eq, s.presReq_iff]
    intro hphase
    simp [s.rxReady_iff, hphase] at h
  exact ⟨h, hpulse, hpulse, hreq⟩

/-- R192: the pulse is for READ only. -/
theorem State.truncationPulse_of_ne_read {s : State} (h : s.phase ≠ .read) : s.truncationPulse = false :=
  Bool.eq_false_iff.2 fun hpulse => h (s.truncationPulse_iff.1 hpulse).1

/-! ### The operations of SEEK1, SEEK2 and READ (R111 to R122) -/

section
variable {s : State} (hrst : s.inp.rst = false) (hq : s.inq = [])
include hrst hq

theorem State.op_of_seek1_empty (hphase : s.phase = .seek1) : s.op = some .s1Wait := by
  simp [State.op_eq, State.operation_eq, hrst, hphase, State.condV, State.rxValid, hq]

theorem State.op_of_seek2_empty (hphase : s.phase = .seek2) : s.op = some .s2Wait := by
  simp [State.op_eq, State.operation_eq, hrst, hphase, State.condV, State.rxValid, hq]

theorem State.op_of_read_empty (hphase : s.phase = .read) (htmr : s.tmr ≠ s.cfg.timeoutCycles) :
    s.op = some .rpWait := by
  simp [State.op_eq, State.operation_eq, hrst, hphase, State.condExp_of_read hphase, htmr, State.condV,
    State.rxValid, hq]

end

/-- R121: the expired timer alone selects the trap, whatever is offered. -/
theorem State.op_of_read_expired {s : State} (hrst : s.inp.rst = false) (hphase : s.phase = .read)
    (htmr : s.tmr = s.cfg.timeoutCycles) : s.op = some .rpTimeout := by
  rw [s.op_eq, s.operation_eq_rpTimeout_iff.2 (s.truncationPulse_iff.2 ⟨hphase, htmr, hrst⟩)]

/-- Settles O14: the byte decides the operation (`State.op_of_seek1_byte`), and S1.MISS writes the PHASE it is in. -/
theorem seek1Operations : Obligations.Seek1Operations := by
  intro s hrst hphase
  refine ⟨State.outputs_of_rxReady (s.rxReady_iff.2 (.inl hphase)),
    fun hq => ⟨State.op_of_seek1_empty hrst hq hphase, rfl⟩, fun b rest hq hb => ⟨?_, ?_⟩,
    fun rest hq => ⟨?_, ?_⟩, rfl, rfl, rfl⟩
  · rw [State.op_of_seek1_byte hrst hq hphase, if_neg hb]
  · rw [exec_s1Miss_of_byte hq, ← hphase]
  · rw [State.op_of_seek1_byte hrst hq hphase, if_pos rfl]
  · exact exec_s1Hit_of_byte hq

/-- Settles O15: the byte decides the operation (`State.op_of_seek2_byte`); since the markers differ (R10 (b)), each
byte falls under one clause. -/
theorem seek2Operations : Obligations.Seek2Operations := by
  intro s hvalid hrst hphase
  have hmarkers := Cfg.valid.markers hvalid
  refine ⟨State.outputs_of_rxReady (s.rxReady_iff.2 (.inr (.inl hphase))),
    fun hq => ⟨State.op_of_seek2_empty hrst hq hphase, rfl⟩, fun rest hq => ⟨?_, ?_⟩,
    fun rest hq => ⟨?_, ?_⟩, fun b rest hq hb1 hb2 => ⟨?_, ?_⟩, rfl, rfl, rfl, rfl⟩
  · rw [State.op_of_seek2_byte hrst hq hphase, if_neg hmarkers, if_pos rfl]
  · rw [exec_s2Again_of_byte hq, ← hphase]
  · rw [State.op_of_seek2_byte hrst hq hphase, if_pos rfl]
  · exact exec_s2Start_of_byte hq
  · rw [State.op_of_seek2_byte hrst hq hphase, if_neg hb2, if_neg hb1]
  · exact exec_s2Miss_of_byte hq

/-- Settles O16: with no byte offered and the timer running, READ waits (`State.op_of_read_empty`). -/
theorem readWaitOperation : Obligations.ReadWaitOperation := by
  intro s hrst hphase htmr hq
  exact ⟨State.op_of_read_empty hrst hq hphase htmr, rfl,
    State.outputs_of_rxReady (s.rxReady_iff.2 (.inr (.inr ⟨hphase, htmr⟩))), rfl⟩

/-- Settles O17: the selection looks at RXCNT and not at the byte (`State.op_of_read_byte`), and the memory's laws say
what the write leaves. -/
theorem readStoreOperation : Obligations.ReadStoreOperation := by
  intro s b rest hrst hphase htmr hq hroom hnotLast
  refine ⟨?_, rfl, State.outputs_of_rxReady (s.rxReady_iff.2 (.inr (.inr ⟨hphase, htmr⟩))), _,
    exec_rpStore_of_lt hq hroom, rfl, Mem.read_write_same .., fun o ho => Mem.read_write_of_ne _ _ ho⟩
  rw [State.op_of_read_byte hrst hq hphase htmr, if_neg hnotLast]

/-- Settles O18: as O17, at the last offset, which is the one RXCNT has reached. -/
theorem readLastOperation : Obligations.ReadLastOperation := by
  intro s b rest hrst hphase htmr hq hlast
  have hoffset : s.cfg.dataLength - 1 = s.rxcnt := by omega
  rw [hoffset]
  refine ⟨?_, rfl, State.outputs_of_rxReady (s.rxReady_iff.2 (.inr (.inr ⟨hphase, htmr⟩))), _,
    exec_rpLast_of_last hq hlast, rfl, Mem.read_write_same .., fun o ho => Mem.read_write_of_ne _ _ ho⟩
  rw [State.op_of_read_byte hrst hq hphase htmr, if_pos hlast]

/-- Settles O19: the expired timer selects the trap and raises the pulse, and the pulse excludes `rx_ready_o`. -/
theorem readTimeoutOperation : Obligations.ReadTimeoutOperation := by
  intro s hrst hphase htmr
  have hpulse : s.truncationPulse = true := s.truncationPulse_iff.2 ⟨hphase, htmr, hrst⟩
  have hreq : s.presReq = false := by simp [State.presReq, hphase]
  exact ⟨State.op_of_read_expired hrst hphase htmr, rfl,
    ⟨State.rxReady_of_truncationPulse hpulse, hpulse, hpulse, hreq⟩, rfl⟩

/-- Settles O20: codes 6 and 7 select ILL.RECOVER, and no output is a function of them. -/
theorem illegalPhaseRecovers : Obligations.IllegalPhaseRecovers := by
  intro s hrst hphase
  have hop : s.op = some .illRecover := by
    rcases hphase with h | h <;> simp [State.op_eq, State.operation_eq, hrst, h]
  have hpulse : s.truncationPulse = false :=
    State.truncationPulse_of_ne_read (by rcases hphase with h | h <;> simp [h])
  have hready : s.rxReady = false := by rcases hphase with h | h <;> simp [State.rxReady, State.expired, h]
  have hreq : s.presReq = false := by rcases hphase with h | h <;> simp [State.presReq, h]
  exact ⟨hop, rfl, ⟨hready, hpulse, hpulse, hreq⟩, rfl⟩

/-- Settles O36: of the operations of READ, RP.WAIT and RP.STORE stay there (`exec_phase`); and no condition bit READ
looks at compares the byte. -/
theorem readEndsOnlyByCountTimerOrReset : Obligations.ReadEndsOnlyByCountTimerOrReset := by
  refine ⟨fun s t i hphase hop hexec hleft => ?_, fun s b b' rest hphase => ?_⟩
  · by_cases hreset : i = .reset
    · exact .inr (.inr hreset)
    have hmem := State.mem_operationsOf_of_op hop hreset
    rw [hphase] at hmem
    rw [exec_phase hop hexec] at hleft
    simp only [operationsOf, List.mem_cons, List.not_mem_nil, or_false] at hmem
    rcases hmem with rfl | rfl | rfl | rfl
    · exact absurd rfl hleft
    · exact absurd rfl hleft
    · exact .inl rfl
    · exact .inr (.inl rfl)
  · simp only [State.op_eq, State.operation_eq, hphase]
    rfl

end Sys2Proof.Machine

namespace Sys2Proof.Machine

/-! ### Runs of several cycles -/

/-- What every cycle of a run keeps, and how far the schedule has come. -/
theorem run_frame {n : Nat} {s t : State} (h : run n s = .next t) :
    t.cfg = s.cfg ∧ t.inqDepth = s.inqDepth ∧ t.sched = s.sched.drop n := by
  induction n generalizing s with
  | zero =>
    cases h
    exact ⟨rfl, rfl, rfl⟩
  | succ n ih =>
    rw [run] at h
    split at h
    · next u hstep =>
      obtain ⟨-, -, hexec⟩ := step_next hstep
      obtain ⟨hcfg, hdepth, -, hsched, -⟩ := exec_frame hexec
      obtain ⟨hcfg', hdepth', hsched'⟩ := ih h
      refine ⟨hcfg'.trans hcfg, hdepth'.trans hdepth, ?_⟩
      rw [hsched', hsched, State.beginCycle_sched, List.drop_tail]
    · cases h
    · cases h

/-- What holds of the inputs of the next `n + m` cycles holds of the first `n`, and of the `m` after them. -/
theorem inputs_split {P : CycleIn → Prop} {n m : Nat} {s : State} (h : ∀ c ∈ s.sched.take (n + m), P c) :
    (∀ c ∈ s.sched.take n, P c) ∧ ∀ t, run n s = .next t → ∀ c ∈ t.sched.take m, P c := by
  rw [List.take_add] at h
  refine ⟨fun c hc => h c (List.mem_append_left _ hc), fun t hrun c hc => h c (List.mem_append_right _ ?_)⟩
  obtain ⟨-, -, hsched⟩ := run_frame hrun
  rwa [← hsched]

theorem run_add {n : Nat} {s t : State} (h : run n s = .next t) (m : Nat) : run (n + m) s = run m t := by
  induction n generalizing s with
  | zero =>
    cases h
    rw [Nat.zero_add]
  | succ n ih =>
    rw [Nat.succ_add]
    rw [run] at h ⊢
    split at h
    · exact ih h
    · cases h
    · cases h

theorem events_add {n : Nat} {s t : State} (h : run n s = .next t) (m : Nat) :
    events (n + m) s = events n s ++ events m t := by
  induction n generalizing s with
  | zero =>
    cases h
    rw [Nat.zero_add]
    rfl
  | succ n ih =>
    rw [Nat.succ_add]
    rw [run] at h
    split at h
    · next u hstep => rw [events_succ_of_step hstep, events_succ_of_step hstep, ih h, List.append_assoc]
    · cases h
    · cases h

/-- `n` cycles lead from `s` to `t`, take the bytes `q` from the head of the stream, and show `es`. -/
structure Leads (n : Nat) (s : State) (q : List Byte) (es : List Event) (t : State) : Prop where
  run    : run n s = .next t
  stream : s.inq ++ s.arriving n = q ++ t.inq
  shown  : events n s = es

theorem Leads.refl (s : State) : Leads 0 s [] [] s :=
  ⟨rfl, by simp [State.arriving], rfl⟩

theorem Leads.trans {n m : Nat} {s t u : State} {q q' : List Byte} {es es' : List Event} (h : Leads n s q es t)
    (h' : Leads m t q' es' u) : Leads (n + m) s (q ++ q') (es ++ es') u := by
  obtain ⟨-, -, hsched⟩ := run_frame h.run
  refine ⟨(run_add h.run m).trans h'.run, ?_, ?_⟩
  · have harriving : s.arriving (n + m) = s.arriving n ++ t.arriving m := by
      rw [State.arriving, State.arriving, State.arriving, hsched, List.take_add, List.flatMap_append]
    rw [harriving, ← List.append_assoc, h.stream, List.append_assoc, h'.stream, List.append_assoc]
  · rw [events_add h.run, h.shown, h'.shown]

/-- One cycle: what it takes is what its operation removes from the INQ of the cycle's start. -/
theorem Leads.of_step {s t : State} {q : List Byte} (hstep : step s = .next t) (hq : s.beginCycle.inq = q ++ t.inq) :
    Leads 1 s q (cycleEvents s.beginCycle t) t := by
  refine ⟨run_succ_of_step hstep 0, ?_, ?_⟩
  · rw [← hq, State.arriving_succ (s := s) (t := s.beginCycle) rfl 0]
    simp [State.arriving]
  · rw [events_succ_of_step hstep]
    exact List.append_nil _

/-- One cycle before `n` others. -/
theorem Leads.cons {n : Nat} {s t u : State} {q q' : List Byte} {es es' : List Event} (h : Leads 1 s q es t)
    (h' : Leads n t q' es' u) : Leads (n + 1) s (q ++ q') (es ++ es') u :=
  Nat.add_comm 1 n ▸ h.trans h'

/-- Where the bytes taken stood in INQ already, the rest of it and what arrives wait. -/
theorem Leads.inq_of_append {n : Nat} {s t : State} {q rest : List Byte} {es : List Event} (h : Leads n s q es t)
    (hq : s.inq = q ++ rest) : t.inq = rest ++ s.arriving n := by
  have hstream := h.stream
  rw [hq, List.append_assoc] at hstream
  exact (List.append_cancel_left hstream).symm

/-- Nothing from outside ends or resets the next `n` cycles: a valid configuration (R10), an INQ without a depth (R72),
no `rst_i`. -/
structure State.Unhindered (s : State) (n : Nat) : Prop where
  valid     : s.cfg.valid = true
  unbounded : s.inqDepth = none
  noReset   : s.noReset n

theorem State.Unhindered.rst {s : State} {n : Nat} (h : s.Unhindered (n + 1)) : s.beginCycle.inp.rst = false :=
  (State.noReset_succ (t := s.beginCycle) h.noReset rfl).1

theorem State.Unhindered.step {s : State} {n : Nat} (h : s.Unhindered n) {i : Instr} (hop : s.beginCycle.op = some i) :
    step s = exec i s.beginCycle :=
  step_of_op h.valid (s.willOverflow_unbounded h.unbounded) hop

theorem State.Unhindered.split {n m : Nat} {s : State} (h : s.Unhindered (n + m)) :
    s.Unhindered n ∧ ∀ t, Machine.run n s = .next t → t.Unhindered m := by
  obtain ⟨hfirst, hlater⟩ := inputs_split (P := fun c => c.rst = false) h.noReset
  refine ⟨⟨h.valid, h.unbounded, hfirst⟩, fun t hrun => ?_⟩
  obtain ⟨hcfg, hdepth, -⟩ := run_frame hrun
  exact ⟨hcfg ▸ h.valid, hdepth.trans h.unbounded, hlater t hrun⟩

/-- What is left after the first cycle. -/
theorem State.Unhindered.tail {n : Nat} {s t : State} (h : s.Unhindered (n + 1)) (hrun : Machine.run 1 s = .next t) :
    t.Unhindered n :=
  (Nat.add_comm n 1 ▸ h).split.2 t hrun

/-- A cycle without the pulse that does not enter PRESENT shows nothing. -/
theorem cycleEvents_eq_nil {s t : State} (hpulse : s.truncationPulse = false) (ht : t.phase ≠ .present) :
    cycleEvents s t = [] := by
  simp [cycleEvents, State.outputs, hpulse, ht]

/-- A cycle in which a byte can be taken never pulses, and one that does not enter PRESENT shows nothing. -/
theorem cycleEvents_of_rxReady {s t : State} (hready : s.rxReady = true) (ht : t.phase ≠ .present) :
    cycleEvents s t = [] := by
  obtain ⟨-, hpulse, -, -⟩ := State.outputs_of_rxReady hready
  exact cycleEvents_eq_nil hpulse ht

/-! ### Complete reception (R123) -/

/-- From `s`, with RXCNT bytes of the payload in PBUF, to `t`, with all of them: `p` are those missing in `s`. -/
structure Received (s : State) (p : List Byte) (t : State) : Prop where
  length : s.rxcnt + p.length = s.cfg.dataLength
  stored : ∀ i, i < p.length → Mem.read t.pbuf (s.rxcnt + i) = p[i]?
  kept   : ∀ o, o < s.rxcnt → Mem.read t.pbuf o = Mem.read s.pbuf o

theorem Received.last {s t : State} {b : Byte} (hlast : s.rxcnt + 1 = s.cfg.dataLength)
    (hpbuf : t.pbuf = Mem.write s.pbuf s.rxcnt b) : Received s [b] t := by
  refine ⟨hlast, fun i hi => ?_, fun o ho => ?_⟩
  · obtain rfl : i = 0 := by simpa using hi
    rw [hpbuf]
    exact Mem.read_write_same ..
  · rw [hpbuf]
    exact Mem.read_write_of_ne _ _ (by omega)

theorem Received.store {s u t : State} {b : Byte} {p : List Byte} (h : Received u p t) (hcfg : u.cfg = s.cfg)
    (hrxcnt : u.rxcnt = s.rxcnt + 1) (hpbuf : u.pbuf = Mem.write s.pbuf s.rxcnt b) :
    Received s (b :: p) t := by
  obtain ⟨hlength, hstored, hkept⟩ := h
  rw [hrxcnt] at hlength hstored hkept
  refine ⟨?_, fun i hi => ?_, fun o ho => ?_⟩
  · rw [← hcfg, ← hlength, List.length_cons]
    omega
  · cases i with
    | zero => rw [Nat.add_zero, hkept _ (Nat.lt_succ_self _), hpbuf, Mem.read_write_same, List.getElem?_cons_zero]
    | succ i =>
      rw [List.getElem?_cons_succ, ← hstored i (by simpa using hi)]
      congr 1
      omega
  · rw [hkept o (by omega), hpbuf]
    exact Mem.read_write_of_ne _ _ (by omega)

theorem Received.wait {s u t : State} {p : List Byte} (h : Received u p t) (hcfg : u.cfg = s.cfg)
    (hrxcnt : u.rxcnt = s.rxcnt) (hpbuf : u.pbuf = s.pbuf) : Received s p t := by
  obtain ⟨hlength, hstored, hkept⟩ := h
  rw [hrxcnt] at hlength hstored hkept
  exact ⟨hcfg ▸ hlength, hstored, fun o ho => hpbuf ▸ hkept o ho⟩

/-- What a cycle in READ can do (R118 to R121, R220). -/
inductive ReadCycle (s u : State) : Prop
  /-- RP.TIMEOUT or RESET -/
  | abandoned (hphase : u.phase = .seek1)
  /-- RP.WAIT -/
  | waited (hphase : u.phase = .read) (hrxcnt : u.rxcnt = s.rxcnt) (hpbuf : u.pbuf = s.pbuf)
    (hq : s.beginCycle.inq = u.inq)
  /-- RP.STORE -/
  | stored (b : Byte) (hphase : u.phase = .read) (hrxcnt : u.rxcnt = s.rxcnt + 1)
    (hpbuf : u.pbuf = Mem.write s.pbuf s.rxcnt b) (hq : s.beginCycle.inq = b :: u.inq)
  /-- RP.LAST -/
  | completed (b : Byte) (hphase : u.phase = .apply) (hlast : s.rxcnt + 1 = s.cfg.dataLength)
    (hpbuf : u.pbuf = Mem.write s.pbuf s.rxcnt b) (hq : s.beginCycle.inq = b :: u.inq)

theorem readCycle_of_step {s u : State} (hphase : s.phase = .read) (hstep : step s = .next u) : ReadCycle s u := by
  obtain ⟨-, -, hexec⟩ := step_next hstep
  have hread : s.beginCycle.phase = .read := hphase
  simp only [State.operation_eq, hread] at hexec
  split at hexec
  · exact .abandoned (execReset_afterReset hexec).phase
  split at hexec
  · exact .abandoned (execRpTimeout_next hexec ▸ State.truncationTrap_phase _)
  split at hexec
  · obtain rfl := execRpWait_next hexec
    exact .waited hphase rfl rfl rfl
  split at hexec
  · next hlst =>
    have hlast : s.rxcnt + 1 = s.cfg.dataLength := (State.condLst_of_read hread).1 hlst
    obtain ⟨b, rest, hq, -, rfl⟩ := execRpLast_next hexec
    have hoffset : s.cfg.dataLength - 1 = s.rxcnt := by omega
    exact .completed b rfl hlast (by simp [hoffset]) hq
  · obtain ⟨b, rest, hq, -, rfl⟩ := execRpStore_next hexec
    exact .stored b hphase rfl rfl hq

/-- A run that stays in READ until it comes to `t` either stays there in its first cycle or is at `t` after it. -/
theorem read_or_end_of_run {n : Nat} {s u t : State} (hstep : step s = .next u)
    (hstays : ∀ m, m < n + 1 → ∃ v, run m s = .next v ∧ v.phase = .read) (hrun : run n u = .next t) :
    u.phase = .read ∨ (n = 0 ∧ t = u) := by
  cases n with
  | zero =>
    cases hrun
    exact .inr ⟨rfl, rfl⟩
  | succ n =>
    obtain ⟨v, hv, hread⟩ := hstays 1 (by omega)
    rw [run_succ_of_step hstep] at hv
    cases hv
    exact .inl hread

/-- R123 from any cycle of READ on: the bytes received until APPLY are those taken from the stream. -/
theorem received_of_run {n : Nat} {s t : State} (hphase : s.phase = .read)
    (hstays : ∀ m, m < n → ∃ u, run m s = .next u ∧ u.phase = .read) (hrun : run n s = .next t)
    (ht : t.phase = .apply) : ∃ p es, Received s p t ∧ Leads n s p es t := by
  induction n generalizing s with
  | zero =>
    cases hrun
    simp [hphase] at ht
  | succ n ih =>
    cases hstep : step s with
    | fault f => simp [run, hstep] at hrun
    | refused r => simp [run, hstep] at hrun
    | next u =>
      have hcfg := step_cfg hstep
      rw [run_succ_of_step hstep] at hrun
      have hfirst := read_or_end_of_run hstep hstays hrun
      have hstays' : ∀ m, m < n → ∃ v, run m u = .next v ∧ v.phase = .read := fun m hm => by
        rw [← run_succ_of_step hstep]
        exact hstays (m + 1) (by omega)
      cases readCycle_of_step hphase hstep with
      | abandoned h =>
        rcases hfirst with hread | ⟨-, rfl⟩
        · simp [h] at hread
        · simp [h] at ht
      | waited h hrxcnt hpbuf hq =>
        obtain ⟨p, es, hreceived, hleads⟩ := ih h hstays' hrun
        exact ⟨p, _, hreceived.wait hcfg hrxcnt hpbuf, (Leads.of_step (q := []) hstep hq).cons hleads⟩
      | stored b h hrxcnt hpbuf hq =>
        obtain ⟨p, es, hreceived, hleads⟩ := ih h hstays' hrun
        exact ⟨b :: p, _, hreceived.store hcfg hrxcnt hpbuf, (Leads.of_step (q := [b]) hstep hq).cons hleads⟩
      | completed b h hlast hpbuf hq =>
        rcases hfirst with hread | ⟨rfl, rfl⟩
        · simp [h] at hread
        · exact ⟨[b], _, .last hlast hpbuf, .of_step (q := [b]) hstep hq⟩

/-- Settles O51: from RXCNT 0 all DATA_LENGTH bytes are received (`received_of_run`), and they head the stream. -/
theorem completeReception : Obligations.CompleteReception := by
  intro s t n hphase hrxcnt hstays hrun ht
  obtain ⟨p, es, ⟨hlength, hstored, -⟩, hleads⟩ := received_of_run hphase hstays hrun ht
  rw [hrxcnt, Nat.zero_add] at hlength
  rw [hleads.stream, ← hlength]
  refine ⟨fun o ho => ?_, by simp, List.drop_left.symm⟩
  rw [List.getElem?_append_left ho, ← hstored o ho, hrxcnt, Nat.zero_add]

/-! ### Silence in READ (R121, R234) -/

/-- The first of `n + 1` silent cycles, and the `n` after it. -/
theorem State.silent_succ {s t : State} {n : Nat} (h : s.silent (n + 1)) (ht : t.sched = s.sched.tail) :
    (s.sched.headD CycleIn.idle).arrivals = [] ∧ t.silent n := by
  unfold State.silent at h ⊢
  rw [ht]
  cases hs : s.sched with
  | nil => exact ⟨rfl, by simp⟩
  | cons c cs => simpa [hs] using h

theorem State.willOverflow_of_silent {s : State} (h : (s.sched.headD CycleIn.idle).arrivals = []) :
    s.willOverflow = false := by
  rw [Bool.eq_false_iff, ne_eq, s.willOverflow_iff]
  rintro ⟨d, -, harrivals, -⟩
  exact harrivals h

/-- R234: a machine in READ that finds INQ empty, and the next `n` cycles bring neither a byte nor a reset. -/
structure State.Starved (s : State) (n : Nat) : Prop where
  valid   : s.cfg.valid = true
  phase   : s.phase = .read
  empty   : s.inq = []
  silent  : s.silent n
  noReset : s.noReset n

section
variable {s : State} {n : Nat}

/-- No byte is there in the first of the cycles either, and nothing keeps READ's own operation from running. -/
theorem State.Starved.step (h : s.Starved (n + 1)) {i : Instr} (hop : s.beginCycle.op = some i) :
    step s = exec i s.beginCycle :=
  step_of_op h.valid (State.willOverflow_of_silent (State.silent_succ (t := s.beginCycle) h.silent rfl).1) hop

theorem State.Starved.inputs (h : s.Starved (n + 1)) :
    s.beginCycle.inp.rst = false ∧ s.beginCycle.inp.arrivals = [] ∧ s.beginCycle.inq = [] := by
  have hsilent : s.beginCycle.inp.arrivals = [] := (State.silent_succ (t := s.beginCycle) h.silent rfl).1
  refine ⟨(State.noReset_succ (t := s.beginCycle) h.noReset rfl).1, hsilent, ?_⟩
  rw [State.beginCycle_inq, h.empty]
  simpa using hsilent

/-- R118 as a whole step. -/
def State.afterWait (s : State) : State := { s.beginCycle with tmr := s.tmr + 1 }

/-- `t` is `s` after `n` cycles of waiting in READ (R118). -/
structure Waited (n : Nat) (s t : State) : Prop where
  phase : t.phase = .read
  tmr   : t.tmr = s.tmr + n
  rxcnt : t.rxcnt = s.rxcnt
  inq   : t.inq = []
  pix   : t.pix = s.pix
  pbuf  : t.pbuf = s.pbuf

theorem Waited.succ {u t : State} (h : Waited n u t) (htmr : u.tmr = s.tmr + 1) (hrxcnt : u.rxcnt = s.rxcnt)
    (hpix : u.pix = s.pix) (hpbuf : u.pbuf = s.pbuf) : Waited (n + 1) s t :=
  ⟨h.phase, by rw [h.tmr, htmr]; omega, h.rxcnt.trans hrxcnt, h.inq, h.pix.trans hpix, h.pbuf.trans hpbuf⟩

/-- R118, cycle by cycle, until at most the timeout. -/
theorem leads_waited (h : s.Starved n) (htmr : s.tmr + n ≤ s.cfg.timeoutCycles) :
    ∃ t, Leads n s [] [] t ∧ Waited n s t := by
  induction n generalizing s with
  | zero => exact ⟨s, .refl s, h.phase, rfl, rfl, h.empty, rfl, rfl⟩
  | succ n ih =>
    obtain ⟨hrst, -, hempty⟩ := h.inputs
    have hrunning : s.beginCycle.tmr ≠ s.beginCycle.cfg.timeoutCycles := by
      rw [s.beginCycle_tmr, s.beginCycle_cfg]
      omega
    have hstep : step s = .next s.afterWait := h.step (State.op_of_read_empty hrst hempty h.phase hrunning)
    have hshown : cycleEvents s.beginCycle s.afterWait = [] :=
      cycleEvents_of_rxReady (s.beginCycle.rxReady_iff.2 (.inr (.inr ⟨h.phase, hrunning⟩)))
        (by simp [State.afterWait, h.phase])
    have hstarved : s.afterWait.Starved n :=
      ⟨h.valid, h.phase, hempty, (State.silent_succ h.silent rfl).2, (State.noReset_succ h.noReset rfl).2⟩
    obtain ⟨t, hleads, hwaited⟩ := ih hstarved (by simp only [State.afterWait, State.beginCycle_cfg]; omega)
    have hfirst : Leads 1 s [] [] s.afterWait := hshown ▸ .of_step hstep rfl
    exact ⟨t, hfirst.cons hleads, hwaited.succ rfl rfl rfl rfl⟩

/-- R121, R192: the trap, with nothing for the flush to keep. -/
theorem leads_trapped (h : s.Starved 1) (htmr : s.tmr = s.cfg.timeoutCycles) :
    Leads 1 s [] [.truncatedPayload] s.beginCycle.truncationTrap ∧ s.beginCycle.truncationTrap.inq = [] := by
  obtain ⟨hrst, harrivals, hempty⟩ := h.inputs
  have hstep : step s = .next s.beginCycle.truncationTrap :=
    h.step (State.op_of_read_expired hrst h.phase htmr)
  have hpulse : s.beginCycle.truncationPulse = true := s.beginCycle.truncationPulse_iff.2 ⟨h.phase, htmr, hrst⟩
  have hinq : s.beginCycle.truncationTrap.inq = [] := by
    rw [State.truncationTrap_inq, State.flushed, harrivals]
    rfl
  have hshown : cycleEvents s.beginCycle s.beginCycle.truncationTrap = [.truncatedPayload] := by
    simp [cycleEvents, State.outputs, hpulse]
  exact ⟨hshown ▸ .of_step hstep (hempty.trans hinq.symm), hinq⟩

end

/-- Settles O52: `leads_waited` until the timer has expired, then `leads_trapped`. -/
theorem silenceEndsInTruncation : Obligations.SilenceEndsInTruncation := by
  intro s hvalid hphase htmr hq hsilent hrst
  have hwaits : ∀ n, n ≤ s.cfg.timeoutCycles - s.tmr → ∃ t, Leads n s [] [] t ∧ Waited n s t := fun n hn => by
    obtain ⟨m, hm⟩ := Nat.exists_eq_add_of_le (Nat.le_succ_of_le hn)
    rw [Nat.succ_eq_add_one] at hm
    rw [hm] at hsilent hrst
    refine leads_waited ⟨hvalid, hphase, hq, ?_, ?_⟩ (by omega)
    · exact (inputs_split (P := fun c => c.arrivals = []) hsilent).1
    · exact (inputs_split (P := fun c => c.rst = false) hrst).1
  refine ⟨fun n hn => ?_, ?_⟩
  · obtain ⟨t, hleads, hwaited⟩ := hwaits n hn
    exact ⟨t, hleads.run, hwaited.phase, hwaited.tmr, hwaited.rxcnt⟩
  · obtain ⟨t, hleads, hwaited⟩ := hwaits _ (Nat.le_refl _)
    obtain ⟨hcfg, -, -⟩ := run_frame hleads.run
    have hstarved : t.Starved 1 :=
      ⟨hcfg ▸ hvalid, hwaited.phase, hwaited.inq,
        (inputs_split (P := fun c => c.arrivals = []) hsilent).2 t hleads.run,
        (inputs_split (P := fun c => c.rst = false) hrst).2 t hleads.run⟩
    obtain ⟨htrap, hinq⟩ := leads_trapped hstarved (by rw [hwaited.tmr, hcfg]; omega)
    have hall := hleads.trans htrap
    exact ⟨_, hall.run, rfl, rfl, rfl, hinq, hwaited.pix, hwaited.pbuf, hall.shown⟩

end Sys2Proof.Machine

namespace Sys2Proof

/-- R170: a physical index is one of PIX. -/
theorem Cfg.map_lt {c : Cfg} (hv : c.valid = true) {x y : Nat} (hx : x < c.width) (hy : y < c.height) :
    c.map x y < c.numPixels := by
  have hscheme := Cfg.valid.scheme hv
  have hnumber : ∀ {a}, a < c.width → y * c.width + a < c.numPixels := fun ha => Cfg.pixelNumber_lt ha hy
  unfold Cfg.map
  cases hs : c.addrScheme with
  | linear => exact hnumber hx
  | serpentine =>
    simp only
    split
    · exact hnumber hx
    · exact hnumber (by omega)
  | own table =>
    rw [hs] at hscheme
    obtain ⟨hlength, hbelow, -⟩ := (AddrScheme.bijective_own _ _).1 hscheme
    have hk : y * c.width + x < table.length := hlength ▸ hnumber hx
    simp only [List.getD_eq_getElem table c.numPixels hk]
    exact hbelow _ (List.getElem_mem hk)

/-- R142: where PX and PY end, they stand at the last payload pixel. -/
theorem Cfg.pixelNumber_of_last {c : Cfg} (hv : c.valid = true) {x y : Nat} (hx : x + 1 = c.width)
    (hy : y + 1 = c.height) : c.pixelNumber x y = c.numPixels - 1 := by
  rw [← Cfg.pixelNumber_last hv, ← hx, ← hy]
  rfl

/-! ### The Correction Region (R174) -/

section
variable {c : Cfg} {x y : Nat}

theorem Cfg.region_of_mem (h : y + 1 = c.height ∧ x < c.corrN) : c.region x y = true := by
  simp [Cfg.region, h]

theorem Cfg.region_of_notMem (h : ¬ (y + 1 = c.height ∧ x < c.corrN)) : c.region x y = false := by
  rw [Cfg.region, ← Bool.decide_and]
  exact decide_eq_false h

/-- R149: what the image shows for a triple of the payload. -/
theorem Cfg.permute_region (r g b : Byte) :
    (corrLut (c.region x y)).permute ⟨r, g, b⟩ =
      if y + 1 = c.height ∧ x < c.corrN then ⟨g, r, b⟩ else ⟨r, g, b⟩ := by
  split
  · next h =>
    rw [Cfg.region_of_mem h]
    rfl
  · next h =>
    rw [Cfg.region_of_notMem h]
    rfl

end

namespace Machine

/-! ### From the markers to APPLY (R113 to R120, R125) -/

/-- The machine after the start of a cycle and the take of the byte that stood before `rest` in INQ. -/
def State.afterTake (s : State) (rest : List Byte) : State :=
  { s.beginCycle with inq := rest ++ (s.sched.headD CycleIn.idle).arrivals.map fun a => a.byte }

@[simp] theorem State.afterTake_cfg (s : State) (rest : List Byte) : (s.afterTake rest).cfg = s.cfg := rfl
@[simp] theorem State.afterTake_phase (s : State) (rest : List Byte) : (s.afterTake rest).phase = s.phase := rfl

theorem State.beginCycle_inq_of_cons {s : State} {b : Byte} {rest : List Byte} (hq : s.inq = b :: rest) :
    s.beginCycle.inq = b :: (s.afterTake rest).inq := by
  rw [State.beginCycle_inq, hq]
  rfl

/-- The machine after the cycle that stores the byte `b` (R119). -/
def State.afterStore (s : State) (b : Byte) (rest : List Byte) : State :=
  { s.afterTake rest with pbuf := Mem.write s.pbuf s.rxcnt b, rxcnt := s.rxcnt + 1, tmr := s.tmr + 1 }

section
variable {s u : State} {b : Byte} {rest : List Byte} {n : Nat} (h : s.Unhindered (n + 1))
include h

/-- A cycle that takes a byte, as a run: its operation is `i`, which leads to `u`. -/
theorem leads_take {i : Instr} (hq : s.inq = b :: rest) (hready : s.rxReady = true) (hop : s.beginCycle.op = some i)
    (hexec : exec i s.beginCycle = .next u) (hu : u.inq = (s.afterTake rest).inq) (hphase : u.phase ≠ .present) :
    Leads 1 s [b] [] u := by
  have hshown : cycleEvents s.beginCycle u = [] := cycleEvents_of_rxReady hready hphase
  have hq' : s.beginCycle.inq = [b] ++ u.inq := hu ▸ State.beginCycle_inq_of_cons hq
  exact hshown ▸ .of_step ((h.step hop).trans hexec) hq'

/-- R113, R115: MARKER1 leads to SEEK2 from either PHASE that seeks. -/
theorem leads_marker1 (hphase : s.phase = .seek1 ∨ s.phase = .seek2) (hq : s.inq = s.cfg.marker1 :: rest) :
    Leads 1 s [s.cfg.marker1] [] { s.afterTake rest with phase := .seek2 } := by
  have hq' := State.beginCycle_inq_of_cons hq
  have hready := s.rxReady_iff.2 (hphase.imp_right .inl)
  rcases hphase with hphase | hphase
  · have hop : s.beginCycle.op = some .s1Hit := by
      rw [State.op_of_seek1_byte h.rst hq' hphase, s.beginCycle_cfg, if_pos rfl]
    exact leads_take h hq hready hop (exec_s1Hit_of_byte hq') rfl (by simp)
  · have hop : s.beginCycle.op = some .s2Again := by
      rw [State.op_of_seek2_byte h.rst hq' hphase, s.beginCycle_cfg, if_neg (Cfg.valid.markers h.valid), if_pos rfl]
    exact leads_take h hq hready hop (exec_s2Again_of_byte hq') rfl (by simp)

/-- R116. -/
theorem leads_marker2 (hphase : s.phase = .seek2) (hq : s.inq = s.cfg.marker2 :: rest) :
    Leads 1 s [s.cfg.marker2] [] { s.afterTake rest with phase := .read, rxcnt := 0, tmr := 0 } := by
  have hq' := State.beginCycle_inq_of_cons hq
  have hop : s.beginCycle.op = some .s2Start := by
    rw [State.op_of_seek2_byte h.rst hq' hphase, s.beginCycle_cfg, if_pos rfl]
  exact leads_take h hq (s.rxReady_iff.2 (.inr (.inl hphase))) hop (exec_s2Start_of_byte hq') rfl (by simp)

/-- R119. -/
theorem leads_store (hphase : s.phase = .read) (htmr : s.tmr ≠ s.cfg.timeoutCycles)
    (hroom : s.rxcnt + 1 < s.cfg.dataLength) (hq : s.inq = b :: rest) :
    Leads 1 s [b] [] (s.afterStore b rest) := by
  have hq' := State.beginCycle_inq_of_cons hq
  have hop : s.beginCycle.op = some .rpStore :=
    (State.op_of_read_byte h.rst hq' hphase htmr).trans (congrArg some (if_neg (Nat.ne_of_lt hroom)))
  exact leads_take h hq (s.rxReady_iff.2 (.inr (.inr ⟨hphase, htmr⟩))) hop
    (exec_rpStore_of_lt hq' (Nat.lt_of_succ_lt hroom)) rfl (by simp [State.afterStore, hphase])

/-- R120. -/
theorem leads_last (hphase : s.phase = .read) (htmr : s.tmr ≠ s.cfg.timeoutCycles)
    (hlast : s.rxcnt + 1 = s.cfg.dataLength) (hq : s.inq = b :: rest) :
    Leads 1 s [b] [] { s.afterTake rest with
      pbuf := Mem.write s.pbuf s.rxcnt b, rxcnt := 0, tmr := 0, px := 0, py := 0, phase := .apply } := by
  have hq' := State.beginCycle_inq_of_cons hq
  have hop : s.beginCycle.op = some .rpLast :=
    (State.op_of_read_byte h.rst hq' hphase htmr).trans (congrArg some (if_pos hlast))
  exact leads_take h hq (s.rxReady_iff.2 (.inr (.inr ⟨hphase, htmr⟩))) hop (exec_rpLast_of_last hq' hlast) rfl
    (by simp)

end

/-- R113, R115, R125: MARKER1, repeated any number of times, leads to SEEK2. -/
theorem leads_markers1 {k : Nat} {s : State} {rest : List Byte} (h : s.Unhindered (k + 1))
    (hphase : s.phase = .seek1 ∨ s.phase = .seek2) (hq : s.inq = List.replicate (k + 1) s.cfg.marker1 ++ rest) :
    ∃ t, Leads (k + 1) s (List.replicate (k + 1) s.cfg.marker1) [] t ∧ t.phase = .seek2 := by
  induction k generalizing s rest with
  | zero => exact ⟨_, leads_marker1 h hphase hq, rfl⟩
  | succ k ih =>
    rw [List.replicate_succ, List.cons_append] at hq
    have hfirst := leads_marker1 h hphase hq
    obtain ⟨t, hleads, ht⟩ := ih (h.tail hfirst.run) (.inr rfl) (List.append_assoc ..)
    exact ⟨t, hfirst.cons hleads, ht⟩

/-- R119, R120: with the missing bytes in INQ, and time left for one a cycle, READ stores them and comes to APPLY. -/
theorem leads_received {p rest : List Byte} {s : State} (h : s.Unhindered p.length) (hphase : s.phase = .read)
    (hp : p ≠ []) (hlength : s.rxcnt + p.length = s.cfg.dataLength)
    (htmr : s.tmr + p.length ≤ s.cfg.timeoutCycles) (hq : s.inq = p ++ rest) :
    ∃ t, Leads p.length s p [] t ∧ Received s p t ∧ t.phase = .apply ∧ t.px = 0 ∧ t.py = 0 := by
  induction p generalizing s rest with
  | nil => exact absurd rfl hp
  | cons b p ih =>
    rw [List.length_cons] at h hlength htmr ⊢
    have hrunning : s.tmr ≠ s.cfg.timeoutCycles := by omega
    cases p with
    | nil =>
      exact ⟨_, leads_last h hphase hrunning hlength hq, .last hlength rfl, rfl, rfl, rfl⟩
    | cons b' p =>
      rw [List.length_cons] at hlength htmr
      have hfirst := leads_store h hphase hrunning (by omega) hq
      have hlength' : s.rxcnt + 1 + (p.length + 1) = s.cfg.dataLength := by omega
      have htmr' : s.tmr + 1 + (p.length + 1) ≤ s.cfg.timeoutCycles := by omega
      obtain ⟨t, hleads, hreceived, hend⟩ := ih (s := s.afterStore b (b' :: p ++ rest)) (h.tail hfirst.run) hphase
        (List.cons_ne_nil b' p) hlength' htmr' (List.append_assoc ..)
      exact ⟨t, hfirst.cons hleads, hreceived.store rfl rfl rfl, hend⟩

/-! ### The Matrix Writer's cycles (R141 to R144) -/

section
variable {s : State}

theorem State.op_of_apply (hrst : s.inp.rst = false) (hphase : s.phase = .apply) :
    s.op = some (if s.px + 1 = s.cfg.width ∧ s.py + 1 = s.cfg.height then .mwWrlast else .mwWrpix) := by
  simp [State.op_eq, State.operation_eq, hrst, hphase, State.condLst_of_apply hphase]

theorem State.op_of_correct (hrst : s.inp.rst = false) (hphase : s.phase = .correct) :
    s.op = some (if s.px + 1 = s.cfg.corrN then .mwSwlast else .mwSwap) := by
  simp [State.op_eq, State.operation_eq, hrst, hphase, State.condLst_of_correct hphase]

section
variable (hv : s.cfg.valid = true)
include hv

theorem exec_mwWrpix_of_lt (hpx : s.px < s.cfg.width) (hpy : s.py < s.cfg.height) :
    exec .mwWrpix s = .next { s with
      pix := Mem.write s.pix (s.cfg.map s.px s.py) (s.payloadTriple s.px s.py)
      px := if s.px + 1 = s.cfg.width then 0 else s.px + 1
      py := if s.px + 1 = s.cfg.width then s.py + 1 else s.py } := by
  have hnumber := Cfg.pixelNumber_lt hpx hpy
  have hdata := s.cfg.dataLength_eq
  rw [exec, execMwWrpix, State.readPbuf3_of_le _ _ _ (by omega),
    State.writePix_of_lt _ _ _ _ (Cfg.map_lt hv hpx hpy)]
  simp only
  split <;> rfl

/-- R142: the last pixel is the one PX and PY have reached. -/
theorem exec_mwWrlast_of_last (hpx : s.px + 1 = s.cfg.width) (hpy : s.py + 1 = s.cfg.height) :
    exec .mwWrlast s = .next { s with
      pix := Mem.write s.pix (s.cfg.map s.px s.py) (s.payloadTriple s.px s.py)
      px := 0, py := 0, phase := if s.cfg.corrN = 0 then .present else .correct } := by
  have hcolumn : s.cfg.width - 1 = s.px := by omega
  have hrow : s.cfg.height - 1 = s.py := by omega
  have hnumber := (Cfg.pixelNumber_of_last hv hpx hpy).symm
  have hlt := Cfg.pixelNumber_lt (c := s.cfg) (x := s.px) (y := s.py) (by omega) (by omega)
  have hdata := s.cfg.dataLength_eq
  rw [exec, execMwWrlast, hcolumn, hrow, hnumber, State.readPbuf3_of_le _ _ _ (by omega),
    State.writePix_of_lt _ _ _ _ (Cfg.map_lt hv (by omega) (by omega))]
  rfl

/-- R143: a column of the region is exchanged. -/
theorem exec_mwSwap_of_lt (hpx : s.px < s.cfg.corrN) :
    exec .mwSwap s = .next { s with
      pix := Mem.write s.pix (s.cfg.map s.px (s.cfg.height - 1))
        ((corrLut true).permute (s.pixel (s.cfg.map s.px (s.cfg.height - 1))))
      px := s.px + 1 } := by
  have hheight := Cfg.valid.height_pos hv
  have hcorrN := Cfg.valid.corrN_le hv
  have hindex := Cfg.map_lt (x := s.px) (y := s.cfg.height - 1) hv (by omega) (by omega)
  have hregion : s.cfg.region s.px (s.cfg.height - 1) = true := Cfg.region_of_mem (by omega)
  rw [exec, execMwSwap, State.readPix_of_lt _ _ _ hindex, State.writePix_of_lt _ _ _ _ hindex, hregion]

/-- R144: the last column of the region is the one PX has reached. -/
theorem exec_mwSwlast_of_last (hpx : s.px + 1 = s.cfg.corrN) :
    exec .mwSwlast s = .next { s with
      pix := Mem.write s.pix (s.cfg.map s.px (s.cfg.height - 1))
        ((corrLut true).permute (s.pixel (s.cfg.map s.px (s.cfg.height - 1))))
      px := 0, phase := .present } := by
  have hcolumn : s.cfg.corrN - 1 = s.px := by omega
  have hheight := Cfg.valid.height_pos hv
  have hcorrN := Cfg.valid.corrN_le hv
  have hindex := Cfg.map_lt (x := s.px) (y := s.cfg.height - 1) hv (by omega) (by omega)
  rw [exec, execMwSwlast, hcolumn, State.readPix_of_lt _ _ _ hindex, State.writePix_of_lt _ _ _ _ hindex]

end

end

/-- What is shown on the way to `t`, where nothing can show but the image when PRESENT is entered (R152). -/
def imageShown (t : State) : List Event :=
  if t.phase = .present then [.present t.image] else []

/-- A cycle of the Matrix Writer, as a run: its operation is `i`, which leads to `u`. -/
theorem leads_write {s u : State} {n : Nat} {i : Instr} (h : s.Unhindered (n + 1))
    (hphase : s.phase = .apply ∨ s.phase = .correct) (hop : s.beginCycle.op = some i)
    (hexec : exec i s.beginCycle = .next u) (hu : u.inq = s.beginCycle.inq) : Leads 1 s [] (imageShown u) u := by
  have hstart : s.phase ≠ .present := by rcases hphase with h | h <;> simp [h]
  have hpulse : s.beginCycle.truncationPulse = false :=
    State.truncationPulse_of_ne_read (by rcases hphase with h | h <;> simp [h])
  have hshown : cycleEvents s.beginCycle u = imageShown u := by
    simp [cycleEvents, State.outputs, imageShown, hpulse, hstart]
  exact hshown ▸ .of_step ((h.step hop).trans hexec) hu.symm

/-! ### APPLY (R147) -/

/-- `n` cycles of APPLY from `s`, where PX and PY stand, to `t`: as many pixels of the payload are written, row by
row. -/
structure Applied (n : Nat) (s t : State) : Prop where
  phase : t.phase =
    if s.cfg.pixelNumber s.px s.py + n < s.cfg.numPixels then .apply
    else if s.cfg.corrN = 0 then .present else .correct
  pxy   : t.phase ≠ .apply → t.px = 0 ∧ t.py = 0
  pbuf  : t.pbuf = s.pbuf
  epoch : t.epoch = s.epoch
  pix   : ∀ x y, x < s.cfg.width → y < s.cfg.height →
    Mem.read t.pix (s.cfg.map x y) =
      if s.cfg.pixelNumber s.px s.py ≤ s.cfg.pixelNumber x y ∧
          s.cfg.pixelNumber x y < s.cfg.pixelNumber s.px s.py + n then
        some (s.payloadTriple x y)
      else Mem.read s.pix (s.cfg.map x y)

/-- A read of the payload sees PBUF, the epoch and the configuration. -/
theorem State.payloadTriple_congr {s t : State} (hcfg : s.cfg = t.cfg) (hpbuf : s.pbuf = t.pbuf)
    (hepoch : s.epoch = t.epoch) (x y : Nat) : s.payloadTriple x y = t.payloadTriple x y := by
  simp only [State.payloadTriple, hcfg, State.pbufByte_congr hpbuf hepoch]

section
variable {s : State}

/-- The write at PX and PY, as the images of APPLY see it: of the pixels from there on, the first is the payload's. -/
theorem read_write_pixelNumber (hv : s.cfg.valid = true) (hpx : s.px < s.cfg.width) (hpy : s.py < s.cfg.height)
    {x y : Nat} (hx : x < s.cfg.width) (hy : y < s.cfg.height) :
    Mem.read (Mem.write s.pix (s.cfg.map s.px s.py) (s.payloadTriple s.px s.py)) (s.cfg.map x y) =
      if s.cfg.pixelNumber x y = s.cfg.pixelNumber s.px s.py then some (s.payloadTriple x y)
      else Mem.read s.pix (s.cfg.map x y) := by
  rw [read_write_map hv _ _ hx hy hpx hpy]
  by_cases hsame : x = s.px ∧ y = s.py
  · rw [if_pos hsame, hsame.1, hsame.2, if_pos rfl]
  · rw [if_neg hsame, if_neg fun heq => hsame (Cfg.pixelNumber_inj hx hpx heq)]

theorem Applied.zero (hphase : s.phase = .apply) (hpx : s.px < s.cfg.width) (hpy : s.py < s.cfg.height) :
    Applied 0 s s where
  phase := by rw [hphase, Nat.add_zero, if_pos (Cfg.pixelNumber_lt hpx hpy)]
  pxy := fun h => absurd hphase h
  pbuf := rfl
  epoch := rfl
  pix := fun x y _ _ => (if_neg (by omega)).symm

/-- MW.WRLAST is the whole of what is left. -/
theorem Applied.last {t : State} (hv : s.cfg.valid = true) (hpx : s.px + 1 = s.cfg.width)
    (hpy : s.py + 1 = s.cfg.height) (hphase : t.phase = if s.cfg.corrN = 0 then .present else .correct)
    (hpxy : t.px = 0 ∧ t.py = 0) (hpbuf : t.pbuf = s.pbuf) (hepoch : t.epoch = s.epoch)
    (hpix : t.pix = Mem.write s.pix (s.cfg.map s.px s.py) (s.payloadTriple s.px s.py)) : Applied 1 s t := by
  have hnumber := Cfg.pixelNumber_of_last hv hpx hpy
  refine ⟨hphase.trans (if_neg (by omega)).symm, fun _ => hpxy, hpbuf, hepoch, fun x y hx hy => ?_⟩
  rw [hpix, read_write_pixelNumber hv (by omega) (by omega) hx hy]
  exact if_congr (by omega) rfl rfl

/-- MW.WRPIX, and `n` cycles from the next pixel on. -/
theorem Applied.succ {n : Nat} {u t : State} (h : Applied n u t) (hv : s.cfg.valid = true)
    (hpx : s.px < s.cfg.width) (hpy : s.py < s.cfg.height) (hcfg : u.cfg = s.cfg)
    (hnext : s.cfg.pixelNumber u.px u.py = s.cfg.pixelNumber s.px s.py + 1) (hpbuf : u.pbuf = s.pbuf)
    (hepoch : u.epoch = s.epoch)
    (hpix : u.pix = Mem.write s.pix (s.cfg.map s.px s.py) (s.payloadTriple s.px s.py)) : Applied (n + 1) s t := by
  obtain ⟨hphase, hpxy, hpbuf', hepoch', hread⟩ := h
  rw [hcfg, hnext] at hphase hread
  refine ⟨hphase.trans (by rw [Nat.add_assoc, Nat.add_comm 1 n]), hpxy, hpbuf'.trans hpbuf, hepoch'.trans hepoch,
    fun x y hx hy => ?_⟩
  rw [hread x y hx hy, hpix, read_write_pixelNumber hv hpx hpy hx hy, State.payloadTriple_congr hcfg hpbuf hepoch]
  split
  · exact (if_pos (by omega)).symm
  · exact if_congr (by omega) rfl rfl

end

/-- The machine after a cycle of MW.WRPIX (R141). -/
def State.afterPixel (s : State) : State :=
  { s.beginCycle with
    pix := Mem.write s.pix (s.cfg.map s.px s.py) (s.payloadTriple s.px s.py)
    px := if s.px + 1 = s.cfg.width then 0 else s.px + 1
    py := if s.px + 1 = s.cfg.width then s.py + 1 else s.py }

/-- The machine after the cycle of MW.WRLAST (R142). -/
def State.afterLastPixel (s : State) : State :=
  { s.beginCycle with
    pix := Mem.write s.pix (s.cfg.map s.px s.py) (s.payloadTriple s.px s.py)
    px := 0, py := 0, phase := if s.cfg.corrN = 0 then .present else .correct }

/-- R147: the cycles of APPLY, from wherever PX and PY stand. -/
theorem leads_applied {n : Nat} {s : State} (h : s.Unhindered n) (hphase : s.phase = .apply)
    (hpx : s.px < s.cfg.width) (hpy : s.py < s.cfg.height)
    (hn : s.cfg.pixelNumber s.px s.py + n ≤ s.cfg.numPixels) :
    ∃ t, Leads n s [] (imageShown t) t ∧ Applied n s t := by
  induction n generalizing s with
  | zero =>
    have hshown : imageShown s = [] := if_neg (by simp [hphase])
    exact ⟨s, hshown ▸ .refl s, .zero hphase hpx hpy⟩
  | succ n ih =>
    have hop := State.op_of_apply h.rst hphase
    by_cases hlast : s.px + 1 = s.cfg.width ∧ s.py + 1 = s.cfg.height
    · obtain ⟨hpx', hpy'⟩ := hlast
      have hnumber := Cfg.pixelNumber_of_last h.valid hpx' hpy'
      obtain rfl : n = 0 := by omega
      have hleads : Leads 1 s [] (imageShown s.afterLastPixel) s.afterLastPixel :=
        leads_write h (.inl hphase) (hop.trans (congrArg some (if_pos ⟨hpx', hpy'⟩)))
          (exec_mwWrlast_of_last h.valid hpx' hpy') rfl
      exact ⟨_, hleads, .last h.valid hpx' hpy' rfl ⟨rfl, rfl⟩ rfl rfl rfl⟩
    · have hleads : Leads 1 s [] (imageShown s.afterPixel) s.afterPixel :=
        leads_write h (.inl hphase) (hop.trans (congrArg some (if_neg hlast)))
          (exec_mwWrpix_of_lt h.valid hpx hpy) rfl
      have hshown : imageShown s.afterPixel = [] := if_neg (by simp [State.afterPixel, hphase])
      have hnext : s.cfg.pixelNumber s.afterPixel.px s.afterPixel.py = s.cfg.pixelNumber s.px s.py + 1 :=
        Cfg.pixelNumber_advance ..
      have hpx' : s.afterPixel.px < s.cfg.width := by
        simp only [State.afterPixel]
        split <;> omega
      have hpy' : s.afterPixel.py < s.cfg.height := by
        simp only [State.afterPixel]
        split <;> omega
      obtain ⟨t, hrest, happlied⟩ := ih (h.tail hleads.run) hphase hpx' hpy'
        (show s.cfg.pixelNumber _ _ + n ≤ s.cfg.numPixels by omega)
      rw [hshown] at hleads
      exact ⟨t, hleads.cons hrest, happlied.succ h.valid hpx hpy rfl hnext rfl rfl rfl⟩

/-! ### CORRECT (R148) -/

/-- `n` cycles of CORRECT from `s`, where PX stands, to `t`: as many columns of the last row are exchanged. -/
structure Corrected (n : Nat) (s t : State) : Prop where
  phase : t.phase = if s.px + n < s.cfg.corrN then .correct else .present
  pix   : ∀ x y, x < s.cfg.width → y < s.cfg.height →
    Mem.read t.pix (s.cfg.map x y) =
      if y + 1 = s.cfg.height ∧ s.px ≤ x ∧ x < s.px + n then
        some ((corrLut true).permute (s.pixel (s.cfg.map x y)))
      else Mem.read s.pix (s.cfg.map x y)

/-- The machine after a cycle of MW.SWAP (R143). -/
def State.afterSwap (s : State) : State :=
  { s.beginCycle with
    pix := Mem.write s.pix (s.cfg.map s.px (s.cfg.height - 1))
      ((corrLut true).permute (s.pixel (s.cfg.map s.px (s.cfg.height - 1))))
    px := s.px + 1 }

/-- The machine after the cycle of MW.SWLAST (R144). -/
def State.afterLastSwap (s : State) : State :=
  { s.afterSwap with px := 0, phase := .present }

/-- The exchange at PX, as the images of CORRECT see it. -/
theorem State.read_afterSwap {s : State} (hv : s.cfg.valid = true) (hpx : s.px < s.cfg.corrN) {x y : Nat}
    (hx : x < s.cfg.width) (hy : y < s.cfg.height) :
    Mem.read s.afterSwap.pix (s.cfg.map x y) =
      if y + 1 = s.cfg.height ∧ x = s.px then some ((corrLut true).permute (s.pixel (s.cfg.map x y)))
      else Mem.read s.pix (s.cfg.map x y) := by
  have hheight := Cfg.valid.height_pos hv
  have hcorrN := Cfg.valid.corrN_le hv
  rw [State.afterSwap, read_write_map hv _ _ hx hy (by omega) (by omega)]
  by_cases hsame : x = s.px ∧ y = s.cfg.height - 1
  · rw [if_pos hsame, if_pos (by omega), hsame.1, hsame.2]
  · rw [if_neg hsame, if_neg (by omega)]

/-- MW.SWAP, and `n` cycles from the next column on. -/
theorem Corrected.succ {n : Nat} {s t : State} (h : Corrected n s.afterSwap t) (hv : s.cfg.valid = true)
    (hpx : s.px < s.cfg.corrN) : Corrected (n + 1) s t := by
  have hcfg : s.afterSwap.cfg = s.cfg := rfl
  have hcolumn : s.afterSwap.px = s.px + 1 := rfl
  have hepoch : s.afterSwap.epoch = s.epoch := rfl
  obtain ⟨hphase, hpix⟩ := h
  rw [hcfg, hcolumn] at hphase hpix
  refine ⟨hphase.trans (if_congr (by omega) rfl rfl), fun x y hx hy => ?_⟩
  have hread := State.read_afterSwap hv hpx hx hy
  rw [hpix x y hx hy, State.pixel, hread, hepoch]
  by_cases hnow : y + 1 = s.cfg.height ∧ x = s.px
  · rw [if_neg (by omega), if_pos hnow, if_pos (by omega)]
  · rw [if_neg hnow]
    exact if_congr (by omega) rfl rfl

/-- R148: the cycles of CORRECT, from wherever PX stands. -/
theorem leads_corrected {n : Nat} {s : State} (h : s.Unhindered n) (hphase : s.phase = .correct)
    (hpx : s.px < s.cfg.corrN) (hn : s.px + n ≤ s.cfg.corrN) :
    ∃ t, Leads n s [] (imageShown t) t ∧ Corrected n s t := by
  induction n generalizing s with
  | zero =>
    have hshown : imageShown s = [] := if_neg (by simp [hphase])
    exact ⟨s, hshown ▸ .refl s, hphase.trans (if_pos hpx).symm, fun x y _ _ => (if_neg (by omega)).symm⟩
  | succ n ih =>
    have hop := State.op_of_correct h.rst hphase
    have hread := fun x y => State.read_afterSwap (x := x) (y := y) h.valid hpx
    by_cases hlast : s.px + 1 = s.cfg.corrN
    · obtain rfl : n = 0 := by omega
      have hleads : Leads 1 s [] (imageShown s.afterLastSwap) s.afterLastSwap :=
        leads_write h (.inr hphase) (hop.trans (congrArg some (if_pos hlast)))
          (exec_mwSwlast_of_last h.valid hlast) rfl
      refine ⟨_, hleads, (if_neg (by omega)).symm, fun x y hx hy => (hread x y hx hy).trans ?_⟩
      exact if_congr (by omega) rfl rfl
    · have hleads : Leads 1 s [] (imageShown s.afterSwap) s.afterSwap :=
        leads_write h (.inr hphase) (hop.trans (congrArg some (if_neg hlast)))
          (exec_mwSwap_of_lt h.valid hpx) rfl
      have hshown : imageShown s.afterSwap = [] := if_neg (by simp [State.afterSwap, hphase])
      rw [hshown] at hleads
      obtain ⟨t, hrest, hcorrected⟩ := ih (h.tail hleads.run) hphase
        (show s.px + 1 < s.cfg.corrN by omega) (show s.px + 1 + n ≤ s.cfg.corrN by omega)
      exact ⟨t, hleads.cons hrest, hcorrected.succ h.valid hpx⟩

/-! ### From APPLY to PRESENT (R149), and a whole frame -/

/-- R149: the Matrix Writer's NUM_PIXELS + CORR_N cycles end in PRESENT, with the payload's image, corrected in the
region, and nothing else shown. -/
theorem leads_presented {s : State} (h : s.Unhindered (s.cfg.numPixels + s.cfg.corrN)) (hphase : s.phase = .apply)
    (hpx : s.px = 0) (hpy : s.py = 0) :
    ∃ t, Leads (s.cfg.numPixels + s.cfg.corrN) s [] [.present t.image] t ∧ t.phase = .present ∧
      ∀ x y, x < s.cfg.width → y < s.cfg.height →
        Mem.read t.pix (s.cfg.map x y) = some ((corrLut (s.cfg.region x y)).permute (s.payloadTriple x y)) := by
  have hstart : s.cfg.pixelNumber s.px s.py = 0 := by simp [Cfg.pixelNumber, hpx, hpy]
  have hwidth := Cfg.valid.width_pos h.valid
  have hheight := Cfg.valid.height_pos h.valid
  obtain ⟨hfirst, hlater⟩ := h.split
  obtain ⟨u, happly, happlied⟩ := leads_applied hfirst hphase (by omega) (by omega) (by omega)
  obtain ⟨hu, hpxy, -, -, hpix⟩ := happlied
  rw [if_neg (by omega)] at hu
  have hwritten : ∀ x y, x < s.cfg.width → y < s.cfg.height →
      Mem.read u.pix (s.cfg.map x y) = some (s.payloadTriple x y) := fun x y hx hy => by
    have hnumber := Cfg.pixelNumber_lt hx hy
    rw [hpix x y hx hy, if_pos (by omega)]
  by_cases hcorrN : s.cfg.corrN = 0
  · rw [if_pos hcorrN] at hu
    rw [imageShown, if_pos hu] at happly
    rw [hcorrN]
    refine ⟨u, happly, hu, fun x y hx hy => ?_⟩
    have hregion : s.cfg.region x y = false := Cfg.region_of_notMem (by omega)
    rw [hwritten x y hx hy, hregion, LutEntry.permute_corrLut_false]
  · rw [if_neg hcorrN] at hu
    rw [imageShown, if_neg (by simp [hu])] at happly
    obtain ⟨hpx', -⟩ := hpxy (by simp [hu])
    obtain ⟨hcfg, -, -⟩ := run_frame happly.run
    have hunhindered := hlater u happly.run
    rw [← hcfg] at hunhindered hcorrN
    obtain ⟨t, hcorrect, ht, hpix'⟩ := leads_corrected hunhindered hu (by omega) (by omega)
    rw [hcfg, hpx', if_neg (by omega)] at ht
    rw [hcfg, hpx'] at hpix'
    rw [imageShown, if_pos ht, hcfg] at hcorrect
    refine ⟨t, happly.trans hcorrect, ht, fun x y hx hy => ?_⟩
    rw [hpix' x y hx hy, State.pixel, hwritten x y hx hy, Option.getD_some]
    by_cases hregion : y + 1 = s.cfg.height ∧ x < s.cfg.corrN
    · rw [if_pos (by omega), Cfg.region_of_mem hregion]
    · rw [if_neg (by omega), Cfg.region_of_notMem hregion, LutEntry.permute_corrLut_false]

/-- R81, R141: where PBUF holds the payload `p`, the triple of a coordinate is three bytes of `p`. -/
theorem payloadTriple_of_payload {s : State} {p : List Byte} (hlength : p.length = s.cfg.dataLength)
    (hpbuf : ∀ o, o < p.length → Mem.read s.pbuf o = p[o]?) {x y : Nat} (hx : x < s.cfg.width)
    (hy : y < s.cfg.height) :
    ∃ r g b : Byte, p[3 * s.cfg.pixelNumber x y]? = some r ∧ p[3 * s.cfg.pixelNumber x y + 1]? = some g ∧
      p[3 * s.cfg.pixelNumber x y + 2]? = some b ∧ s.payloadTriple x y = ⟨r, g, b⟩ := by
  have hpayload : s.HoldsPayload := fun o ho => by
    rw [hpbuf o (by omega), List.getElem?_eq_getElem (by omega)]
    exact Option.some_ne_none _
  have hnumber := Cfg.pixelNumber_lt hx hy
  have hdata := s.cfg.dataLength_eq
  obtain ⟨r, g, b, hr, hg, hb, htriple⟩ := hpayload.exists_triple hx hy
  rw [hpbuf _ (by omega)] at hr hg hb
  exact ⟨r, g, b, hr, hg, hb, htriple⟩

/-- R80: a frame behind `k` further first markers, as the machine takes it. -/
theorem replicate_append_frame (c : Cfg) (k : Nat) (p : List Byte) :
    List.replicate k c.marker1 ++ c.frame p = List.replicate (k + 1) c.marker1 ++ ([c.marker2] ++ p) := by
  rw [List.replicate_succ', List.append_assoc]
  rfl

/-- R80, R113 to R120: a frame at the head of INQ, its first marker repeated, is received whole, one byte a cycle. -/
theorem leads_frame {s : State} {k : Nat} {p rest : List Byte} (h : s.Unhindered (k + 1 + (1 + p.length)))
    (hphase : s.phase = .seek1) (hlength : p.length = s.cfg.dataLength)
    (hq : s.inq = List.replicate k s.cfg.marker1 ++ s.cfg.frame p ++ rest) :
    ∃ t, Leads (k + 1 + (1 + p.length)) s (List.replicate k s.cfg.marker1 ++ s.cfg.frame p) [] t ∧
      t.phase = .apply ∧ t.px = 0 ∧ t.py = 0 ∧ ∀ o, o < p.length → Mem.read t.pbuf o = p[o]? := by
  have hpixels := Cfg.valid.numPixels_pos h.valid
  have hdata := s.cfg.dataLength_eq
  have htimeout := Cfg.valid.timeout h.valid
  have hp : p ≠ [] := List.ne_nil_of_length_pos (by omega)
  rw [replicate_append_frame] at hq ⊢
  rw [List.append_assoc] at hq
  obtain ⟨hfirst, hlater⟩ := h.split
  obtain ⟨u, hmarkers, hu⟩ := leads_markers1 hfirst (.inl hphase) hq
  obtain ⟨hcfg, -, -⟩ := run_frame hmarkers.run
  have hunhindered : u.Unhindered (p.length + 1) := Nat.add_comm 1 _ ▸ hlater u hmarkers.run
  have huq : u.inq = u.cfg.marker2 :: (p ++ (rest ++ s.arriving (k + 1))) := by
    rw [hmarkers.inq_of_append hq, hcfg]
    simp
  have hstart := leads_marker2 hunhindered hu huq
  rw [← hcfg] at hlength htimeout
  obtain ⟨t, hread, hreceived, ht, hpx, hpy⟩ := leads_received (hunhindered.tail hstart.run) rfl hp
    ((Nat.zero_add _).trans hlength) (by rw [hlength, Nat.zero_add]; exact htimeout) (List.append_assoc ..)
  rw [hcfg] at hstart
  refine ⟨t, hmarkers.trans (hstart.trans hread), ht, hpx, hpy, fun o ho => ?_⟩
  have hstored := hreceived.stored o ho
  rwa [Nat.zero_add] at hstored

/-- Settles O56: `leads_frame` to APPLY with the payload in PBUF, then `leads_presented`. -/
theorem frameIsPresented : Obligations.FrameIsPresented := by
  intro s k p rest hvalid hdepth hphase hlength hq hrst
  have hcycles : k + 2 + s.cfg.dataLength + s.cfg.numPixels + s.cfg.corrN =
      k + 1 + (1 + p.length) + (s.cfg.numPixels + s.cfg.corrN) := by omega
  rw [hcycles] at hrst ⊢
  obtain ⟨hfirst, hlater⟩ := State.Unhindered.split ⟨hvalid, hdepth, hrst⟩
  obtain ⟨u, hframe, hu, hpx, hpy, hpbuf⟩ := leads_frame hfirst hphase hlength hq
  obtain ⟨hcfg, -, -⟩ := run_frame hframe.run
  have hunhindered := hlater u hframe.run
  rw [← hcfg] at hunhindered hlength
  obtain ⟨t, hwriter, ht, himage⟩ := leads_presented hunhindered hu hpx hpy
  rw [hcfg] at hwriter himage
  have hall := hframe.trans hwriter
  rw [List.append_nil] at hall
  refine ⟨t, hall.run, ht, hall.inq_of_append hq, hall.shown, fun x y hx hy => ?_⟩
  obtain ⟨r, g, b, hr, hg, hb, htriple⟩ := payloadTriple_of_payload hlength hpbuf (hcfg ▸ hx) (hcfg ▸ hy)
  rw [hcfg] at hr hg hb
  refine ⟨r, g, b, hr, hg, hb, ?_⟩
  rw [himage x y hx hy, htriple, Cfg.permute_region]

end Machine

end Sys2Proof

/-! PROOFS of the family 41_matrix_writer: the Matrix Writer's operations, how long APPLY, CORRECT and PRESENT last, and
what the image depends on. -/

namespace Sys2Proof

/-- The physical index of payload pixel `k` (R81, R170). -/
def Cfg.pixelIndex (c : Cfg) (k : Nat) : Nat := c.map (c.column k) (c.row k)

theorem Cfg.pixelIndex_lt {c : Cfg} (hv : c.valid = true) {k : Nat} (hk : k < c.numPixels) :
    c.pixelIndex k < c.numPixels :=
  Cfg.map_lt hv (Cfg.column_lt hv k) (Cfg.row_lt hk)

theorem Cfg.pixelIndex_inj {c : Cfg} (hv : c.valid = true) {k k' : Nat} (hk : k < c.numPixels) (hk' : k' < c.numPixels)
    (h : c.pixelIndex k = c.pixelIndex k') : k = k' := by
  obtain ⟨hcolumn, hrow⟩ :=
    Cfg.map_inj hv (Cfg.column_lt hv k) (Cfg.row_lt hk) (Cfg.column_lt hv k') (Cfg.row_lt hk') h
  rw [← c.pixelNumber_column_row k, hcolumn, hrow, c.pixelNumber_column_row]

/-- R170: every physical index is that of a logical coordinate, since NUM_PIXELS payload pixels have as many indices and
share none. -/
theorem Cfg.exists_map_eq {c : Cfg} (hv : c.valid = true) {i : Nat} (hi : i < c.numPixels) :
    ∃ x y, x < c.width ∧ y < c.height ∧ c.map x y = i := by
  have hsurj : Set.SurjOn c.pixelIndex (Finset.range c.numPixels) (Finset.range c.numPixels) :=
    Finset.surjOn_of_injOn_of_card_le c.pixelIndex
      (fun k hk => Finset.mem_coe.2 (Finset.mem_range.2 (Cfg.pixelIndex_lt hv (Finset.mem_range.1 hk))))
      (fun k hk k' hk' h => Cfg.pixelIndex_inj hv (Finset.mem_range.1 hk) (Finset.mem_range.1 hk') h) le_rfl
  obtain ⟨k, hk, rfl⟩ := hsurj (Finset.mem_coe.2 (Finset.mem_range.2 hi))
  exact ⟨c.column k, c.row k, Cfg.column_lt hv k, Cfg.row_lt (Finset.mem_range.1 hk), rfl⟩

namespace Machine

/-! ### The outputs and the selection while the Matrix Writer runs -/

/-- R31: in APPLY and CORRECT no handshake output is 1. -/
theorem State.outputs_of_writing {s : State} (h : s.phase = .apply ∨ s.phase = .correct) :
    s.outputs.rxReady = false ∧ s.outputs.rxFlush = false ∧ s.outputs.errTrunc = false ∧
      s.outputs.presReq = false := by
  obtain ⟨hready, hpulse⟩ := State.writer_outputs (h.imp_right .inl)
  have hreq : s.presReq = false := by rcases h with h | h <;> simp [State.presReq, h]
  exact ⟨hready, hpulse, hpulse, hreq⟩

theorem State.op_of_present {s : State} (hrst : s.inp.rst = false) (hphase : s.phase = .present) :
    s.op = some (if s.inp.done then .mwDone else .mwHold) := by
  rw [State.op_eq, State.operation_eq, hrst, hphase]
  rfl

/-! ### The operations (R141 to R146) -/

/-- Settles O21: PX and PY select the operation (`State.op_of_apply`), and the memory's laws say what the write
leaves. -/
theorem writePixelOperation : Obligations.WritePixelOperation := by
  intro s hvalid hrst hphase hpx hpy hnotLast
  refine ⟨?_, rfl, State.outputs_of_writing (.inl hphase), _, exec_mwWrpix_of_lt hvalid hpx hpy, rfl,
    Mem.read_write_same .., fun i hi => Mem.read_write_of_ne _ _ hi⟩
  rw [State.op_of_apply hrst hphase, if_neg hnotLast]

/-- R81, R142: the triple of the last pixel is the last three bytes of the payload. -/
theorem State.payloadTriple_of_last {s : State} (hv : s.cfg.valid = true) {x y : Nat} (hx : x + 1 = s.cfg.width)
    (hy : y + 1 = s.cfg.height) :
    s.payloadTriple x y =
      ⟨s.pbufByte (s.cfg.dataLength - 3), s.pbufByte (s.cfg.dataLength - 2), s.pbufByte (s.cfg.dataLength - 1)⟩ := by
  have hpixels := Cfg.valid.numPixels_pos hv
  have hdata := s.cfg.dataLength_eq
  have hnumber := Cfg.pixelNumber_of_last hv hx hy
  have hr : s.cfg.dataLength - 3 = 3 * s.cfg.pixelNumber x y := by omega
  have hg : s.cfg.dataLength - 2 = 3 * s.cfg.pixelNumber x y + 1 := by omega
  have hb : s.cfg.dataLength - 1 = 3 * s.cfg.pixelNumber x y + 2 := by omega
  rw [State.payloadTriple, hr, hg, hb]

/-- Settles O22: as O21, at the last pixel, which is the one PX and PY have reached. -/
theorem writeLastPixelOperation : Obligations.WriteLastPixelOperation := by
  intro s hvalid hrst hphase hpx hpy
  have hcolumn : s.cfg.width - 1 = s.px := by omega
  have hrow : s.cfg.height - 1 = s.py := by omega
  rw [hcolumn, hrow, ← State.payloadTriple_of_last hvalid hpx hpy]
  refine ⟨?_, rfl, State.outputs_of_writing (.inl hphase), _, exec_mwWrlast_of_last hvalid hpx hpy, rfl,
    Mem.read_write_same .., fun i hi => Mem.read_write_of_ne _ _ hi⟩
  rw [State.op_of_apply hrst hphase, if_pos ⟨hpx, hpy⟩]

/-- Settles O23: PX selects the operation (`State.op_of_correct`), and it lies in the region, whose table entry
exchanges R and G. -/
theorem swapOperation : Obligations.SwapOperation := by
  intro s hvalid hrst hphase hpx hnotLast
  refine ⟨?_, rfl, State.outputs_of_writing (.inr hphase), _, exec_mwSwap_of_lt hvalid hpx, rfl,
    Mem.read_write_same .., fun i hi => Mem.read_write_of_ne _ _ hi⟩
  rw [State.op_of_correct hrst hphase, if_neg hnotLast]

/-- Settles O24: as O23, at the last column of the region, which is the one PX has reached. -/
theorem swapLastOperation : Obligations.SwapLastOperation := by
  intro s hvalid hrst hphase hlast
  have hcolumn : s.cfg.corrN - 1 = s.px := by omega
  rw [hcolumn]
  refine ⟨?_, rfl, State.outputs_of_writing (.inr hphase), _, exec_mwSwlast_of_last hvalid hlast, rfl,
    Mem.read_write_same .., fun i hi => Mem.read_write_of_ne _ _ hi⟩
  rw [State.op_of_correct hrst hphase, if_pos hlast]

/-- Settles O25: `pres_done_i` alone selects between the two operations (`State.op_of_present`). -/
theorem presentOperations : Obligations.PresentOperations := by
  intro s hrst hphase
  obtain ⟨hready, hpulse⟩ := State.writer_outputs (.inr (.inr hphase))
  refine ⟨⟨hready, hpulse, hpulse, s.presReq_iff.2 hphase⟩, fun hdone => ⟨?_, rfl⟩, fun hdone => ⟨?_, rfl⟩, rfl, rfl⟩
  · simp [State.op_of_present hrst hphase, hdone]
  · simp [State.op_of_present hrst hphase, hdone]

/-! ### How APPLY is entered (R151) -/

/-- Of all operations, wherever they run, RP.LAST alone brings APPLY. -/
theorem eq_rpLast_of_enters_apply {i : Instr} {s t : State} (h : exec i s = .next t) (hs : s.phase ≠ .apply)
    (ht : t.phase = .apply) : i = .rpLast := by
  have hkept : t.phase ≠ s.phase := fun heq => hs (heq ▸ ht)
  cases i with
  | rpLast => rfl
  | reset => obtain rfl := execReset_next h; cases ht
  | s1Miss => obtain ⟨_, _, -, rfl⟩ := execS1Miss_next h; cases ht
  | s1Hit => obtain ⟨_, _, -, rfl⟩ := execS1Hit_next h; cases ht
  | s2Again => obtain ⟨_, _, -, rfl⟩ := execS2Again_next h; cases ht
  | s2Start => obtain ⟨_, _, -, rfl⟩ := execS2Start_next h; cases ht
  | s2Miss => obtain ⟨_, _, -, rfl⟩ := execS2Miss_next h; cases ht
  | rpTimeout => obtain rfl := execRpTimeout_next h; cases ht
  | illRecover => obtain rfl := execIllRecover_next h; cases ht
  | mwWrlast => obtain ⟨-, -, rfl⟩ := execMwWrlast_next h; simp only at ht; split at ht <;> cases ht
  | mwSwlast => obtain ⟨-, rfl⟩ := execMwSwlast_next h; cases ht
  | mwDone => obtain rfl := execMwDone_next h; cases ht
  | s1Wait => obtain rfl := execS1Wait_next h; exact absurd rfl hkept
  | s2Wait => obtain rfl := execS2Wait_next h; exact absurd rfl hkept
  | rpWait => obtain rfl := execRpWait_next h; exact absurd rfl hkept
  | rpStore => obtain ⟨_, _, -, -, rfl⟩ := execRpStore_next h; exact absurd rfl hkept
  | mwWrpix => obtain ⟨-, -, rfl⟩ := execMwWrpix_next h; exact absurd rfl hkept
  | mwSwap => obtain ⟨-, rfl⟩ := execMwSwap_next h; exact absurd rfl hkept
  | mwHold => obtain rfl := execMwHold_next h; exact absurd rfl hkept

/-- Settles O37: `eq_rpLast_of_enters_apply`, and the invariant of the state entered says that PBUF is complete. -/
theorem applyEnteredOnlyWithWholePayload : Obligations.ApplyEnteredOnlyWithWholePayload := by
  refine ⟨fun i s t => eq_rpLast_of_enters_apply, fun s t hinv hstep hs ht => ⟨?_, fun o ho => ?_⟩⟩
  · obtain ⟨-, -, hexec⟩ := step_next hstep
    rw [State.op_eq, eq_rpLast_of_enters_apply hexec hs ht]
  · have hafter : Inv t := stepKeepsInvariant s t hinv hstep
    exact Option.ne_none_iff_exists'.1 (hafter.complete (.inl ht) o ho)

/-! ### PIX over several cycles -/

/-- Without a reset the memories' free contents stay those of one epoch (R221). -/
theorem run_epoch {n : Nat} {s t : State} (hrst : s.noReset n) (h : run n s = .next t) : t.epoch = s.epoch := by
  induction n generalizing s with
  | zero =>
    cases h
    rfl
  | succ n ih =>
    rw [run] at h
    split at h
    · next u hstep =>
      obtain ⟨-, -, hexec⟩ := step_next hstep
      obtain ⟨-, -, -, hsched, -⟩ := exec_frame hexec
      obtain ⟨hfirst, hlater⟩ := State.noReset_succ hrst hsched
      have hnotReset : s.beginCycle.sel.operation ≠ .reset := fun heq => by
        have hreset := s.beginCycle.operation_eq_reset_iff.1 heq
        rw [s.beginCycle_inp, hfirst] at hreset
        cases hreset
      have hepoch : u.epoch = s.epoch := not_not.1 fun hne => hnotReset ((exec_writtenBy hexec).epoch hne)
      exact (ih hlater h).trans hepoch
    · cases h
    · cases h

/-- What PIX reads as where it lists a new triple under a condition and else what it listed before. -/
theorem State.pixel_of_read {s t : State} {i : Nat} {p : Pixel} {q : Prop} [Decidable q] (hepoch : t.epoch = s.epoch)
    (h : Mem.read t.pix i = if q then some p else Mem.read s.pix i) : t.pixel i = if q then p else s.pixel i := by
  rw [State.pixel, h, hepoch]
  split <;> rfl

/-- Settles O53: `leads_applied` from the first pixel. -/
theorem applyWritesWholeImage : Obligations.ApplyWritesWholeImage := by
  intro s n hvalid hdepth hphase hpx hpy hn hrst
  have hstart : s.cfg.pixelNumber s.px s.py = 0 := by simp [Cfg.pixelNumber, hpx, hpy]
  have hwidth := Cfg.valid.width_pos hvalid
  have hheight := Cfg.valid.height_pos hvalid
  obtain ⟨t, hleads, happlied⟩ :=
    leads_applied (n := n) ⟨hvalid, hdepth, hrst⟩ hphase (by omega) (by omega) (by omega)
  obtain ⟨ht, -, hpbuf, hepoch, hpix⟩ := happlied
  simp only [hstart, Nat.zero_add, Nat.zero_le, true_and] at ht hpix
  exact ⟨t, hleads.run, ht, hleads.inq_of_append rfl, hpbuf, hleads.shown,
    fun x y hx hy => State.pixel_of_read hepoch (hpix x y hx hy)⟩

/-! ### CORRECT (R148) -/

/-- R89, column "next PHASE": CORRECT is that of MW.SWAP, and, where there is a region, of MW.WRLAST. -/
theorem eq_mwSwap_or_region_of_nextPhase {s : State} {i : Instr} (h : nextPhase s i = .correct) :
    i = .mwSwap ∨ s.cfg.corrN ≠ 0 := by
  cases i with
  | mwSwap => exact .inl rfl
  | mwWrlast =>
    refine .inr fun hcorrN => ?_
    simp [nextPhase, State.condCz, hcorrN] at h
  | _ => cases h

/-- R148: without a region CORRECT is not entered. -/
theorem step_phase_ne_correct {s t : State} (hcorrN : s.cfg.corrN = 0) (hs : s.phase ≠ .correct)
    (hstep : step s = .next t) : t.phase ≠ .correct := by
  intro ht
  obtain ⟨-, -, hexec⟩ := step_next hstep
  have hop : s.beginCycle.op = some s.beginCycle.sel.operation := s.beginCycle.op_eq
  rw [exec_phase hop hexec] at ht
  rcases eq_mwSwap_or_region_of_nextPhase ht with hswap | hregion
  · rw [hswap] at hop
    have hphase : s.beginCycle.phase = .correct := State.phase_of_op hop rfl
    exact hs hphase
  · exact hregion hcorrN

/-- Settles O54: `step_phase_ne_correct`, and `leads_corrected` from the first column. -/
theorem correctSwapsRegionOnce : Obligations.CorrectSwapsRegionOnce := by
  refine ⟨fun s t => step_phase_ne_correct, fun s n hvalid hdepth hphase hpx hregion hn hrst => ?_⟩
  obtain ⟨t, hleads, ht, hpix⟩ :=
    leads_corrected (n := n) ⟨hvalid, hdepth, hrst⟩ hphase (by omega) (by omega)
  simp only [hpx, Nat.zero_add, Nat.zero_le, true_and] at ht hpix
  exact ⟨t, hleads.run, ht, fun x y hx hy => State.pixel_of_read (run_epoch hrst hleads.run) (hpix x y hx hy)⟩

/-! ### The image (R149, R150) -/

/-- The image is what PIX shows at the logical coordinates. -/
theorem State.image_congr {t t' : State} (hv : t.cfg.valid = true) (hcfg : t'.cfg = t.cfg)
    (h : ∀ x y, x < t.cfg.width → y < t.cfg.height → t'.pixel (t.cfg.map x y) = t.pixel (t.cfg.map x y)) :
    t'.image = t.image := by
  rw [State.image, State.image, hcfg]
  refine List.map_congr_left fun i hi => ?_
  obtain ⟨x, y, hx, hy, rfl⟩ := Cfg.exists_map_eq hv (List.mem_range.1 hi)
  exact h x y hx hy

/-- R81: equal payloads have equal triples. -/
theorem State.payloadTriple_of_same_payload {s s' : State} (hcfg : s'.cfg = s.cfg)
    (h : ∀ o, o < s.cfg.dataLength → s'.pbufByte o = s.pbufByte o) {x y : Nat} (hx : x < s.cfg.width)
    (hy : y < s.cfg.height) : s'.payloadTriple x y = s.payloadTriple x y := by
  have hnumber := Cfg.pixelNumber_lt hx hy
  have hdata := s.cfg.dataLength_eq
  simp only [State.payloadTriple, hcfg]
  rw [h _ (by omega), h _ (by omega), h _ (by omega)]

/-- Settles O55: `leads_presented` of both machines; what it says of either image names the configuration and the
payload only. -/
theorem imageDependsOnPayloadOnly : Obligations.ImageDependsOnPayloadOnly := by
  intro s s' hvalid hcfg hdepth hdepth' hphase hphase' hpx hpy hpx' hpy' hpayload hrst hrst'
  obtain ⟨t, hleads, ht, himage⟩ := leads_presented ⟨hvalid, hdepth, hrst⟩ hphase hpx hpy
  rw [← hcfg] at hvalid hrst'
  obtain ⟨t', hleads', ht', himage'⟩ := leads_presented ⟨hvalid, hdepth', hrst'⟩ hphase' hpx' hpy'
  rw [hcfg] at hvalid hleads' himage'
  obtain ⟨hcfgt, -, -⟩ := run_frame hleads.run
  obtain ⟨hcfgt', -, -⟩ := run_frame hleads'.run
  refine ⟨t, t', hleads.run, hleads'.run, ht, ht', ?_⟩
  refine State.image_congr (hcfgt ▸ hvalid) (hcfgt'.trans (hcfg.trans hcfgt.symm)) ?_
  rw [hcfgt]
  intro x y hx hy
  rw [State.pixel, State.pixel, himage x y hx hy, himage' x y hx hy,
    State.payloadTriple_of_same_payload hcfg hpayload hx hy, Option.getD_some, Option.getD_some]

/-! ### PRESENT (R145, R232) -/

/-- What holds of the inputs of the next `n + 1` cycles holds of the first of them, an idle one where the schedule is
used up, and of the `n` after it. -/
theorem inputs_succ {P : CycleIn → Prop} (hidle : P CycleIn.idle) {n : Nat} {s t : State}
    (h : ∀ c ∈ s.sched.take (n + 1), P c) (ht : t.sched = s.sched.tail) :
    P (s.sched.headD CycleIn.idle) ∧ ∀ c ∈ t.sched.take n, P c := by
  rw [ht]
  cases hs : s.sched with
  | nil => exact ⟨hidle, by simp⟩
  | cons c cs => simpa [hs] using h

/-- R145: a cycle of MW.HOLD is its start alone, and shows nothing. -/
theorem leads_hold {n : Nat} {s : State} (h : s.Unhindered (n + 1)) (hphase : s.phase = .present)
    (hdone : (s.sched.headD CycleIn.idle).done = false) : Leads 1 s [] [] s.beginCycle := by
  have hop : s.beginCycle.op = some .mwHold := by
    rw [State.op_of_present h.rst hphase, s.beginCycle_inp, hdone]
    rfl
  obtain ⟨-, hpulse⟩ := State.writer_outputs (s := s.beginCycle) (.inr (.inr hphase))
  have hshown : cycleEvents s.beginCycle s.beginCycle = [] := by simp [cycleEvents, State.outputs, hpulse, hphase]
  exact hshown ▸ .of_step (h.step hop) rfl

/-- R232: without an answer PRESENT lasts any number of cycles. -/
theorem leads_held {n : Nat} {s : State} (h : s.Unhindered n) (hphase : s.phase = .present)
    (hdone : ∀ c ∈ s.sched.take n, c.done = false) :
    ∃ t, Leads n s [] [] t ∧ t.phase = .present ∧ t.pix = s.pix := by
  induction n generalizing s with
  | zero => exact ⟨s, .refl s, hphase, rfl⟩
  | succ n ih =>
    obtain ⟨hfirst, hlater⟩ := inputs_succ (P := fun c => c.done = false) rfl (t := s.beginCycle) hdone rfl
    have hleads := leads_hold h hphase hfirst
    obtain ⟨t, hrest, ht, hpix⟩ := ih (h.tail hleads.run) hphase hlater
    exact ⟨t, hleads.cons hrest, ht, hpix⟩

/-- Settles O57: `leads_held`, which takes no byte. -/
theorem presentWaitsForDriver : Obligations.PresentWaitsForDriver := by
  intro s n hvalid hdepth hphase hrst hdone
  obtain ⟨t, hleads, ht, hpix⟩ := leads_held ⟨hvalid, hdepth, hrst⟩ hphase hdone
  exact ⟨t, hleads.run, ht, hpix, hleads.inq_of_append rfl, hleads.shown⟩

end Machine

end Sys2Proof

/-! PROOFS of the family 42_mapper_lut: the addressing mapper with its inverse, and the correction lookup. -/

namespace Sys2Proof

/-! ### The schemes' formulas (R171, R172) -/

/-- R172: the place within row `y` at which the serpentine wiring puts column `x`. The same function reads a place
back as its column (R173). -/
def Cfg.serpentineColumn (c : Cfg) (y x : Nat) : Nat := if y % 2 = 0 then x else c.width - 1 - x

theorem Cfg.serpentineColumn_of_even (c : Cfg) {y : Nat} (hy : y % 2 = 0) (x : Nat) : c.serpentineColumn y x = x :=
  if_pos hy

theorem Cfg.serpentineColumn_of_odd (c : Cfg) {y : Nat} (hy : y % 2 = 1) (x : Nat) :
    c.serpentineColumn y x = c.width - 1 - x :=
  if_neg (by omega)

section
variable {c : Cfg} {x : Nat} (hx : x < c.width) (y : Nat)
include hx

theorem Cfg.serpentineColumn_lt : c.serpentineColumn y x < c.width := by
  rcases Nat.mod_two_eq_zero_or_one y with hy | hy
  · rwa [c.serpentineColumn_of_even hy]
  · rw [c.serpentineColumn_of_odd hy]
    omega

/-- Reversing a row twice gives it back. -/
theorem Cfg.serpentineColumn_serpentineColumn : c.serpentineColumn y (c.serpentineColumn y x) = x := by
  rcases Nat.mod_two_eq_zero_or_one y with hy | hy
  · simp only [c.serpentineColumn_of_even hy]
  · simp only [c.serpentineColumn_of_odd hy]
    omega

/-- R173: where the two schemes agree, no column moves: a single row is row 0, and a single column is its own
mirror image. -/
theorem Cfg.serpentineColumn_of_agree {y : Nat} (hy : y < c.height)
    (h : y % 2 = 0 ∨ c.height = 1 ∨ c.width = 1) : c.serpentineColumn y x = x := by
  rcases h with heven | hheight | hwidth
  · exact c.serpentineColumn_of_even heven x
  · exact c.serpentineColumn_of_even (by omega) x
  · have hlt := Cfg.serpentineColumn_lt hx y
    omega

end

section
variable {c : Cfg}

theorem Cfg.map_linear (hs : c.addrScheme = .linear) (x y : Nat) : c.map x y = c.pixelNumber x y := by
  rw [Cfg.map, hs]
  rfl

theorem Cfg.map_serpentine (hs : c.addrScheme = .serpentine) (x y : Nat) :
    c.map x y = c.pixelNumber (c.serpentineColumn y x) y := by
  rw [Cfg.map, hs]
  exact (apply_ite (c.pixelNumber · y) ..).symm

theorem Cfg.map_own {table : List Nat} (hs : c.addrScheme = .own table) {x y : Nat}
    (hk : c.pixelNumber x y < table.length) : c.map x y = table[c.pixelNumber x y] := by
  rw [Cfg.map, hs]
  exact List.getD_eq_getElem table c.numPixels hk

theorem Cfg.unmap_linear (hs : c.addrScheme = .linear) (i : Nat) : c.unmap i = (c.column i, c.row i) := by
  rw [Cfg.unmap, hs]
  rfl

theorem Cfg.unmap_serpentine (hs : c.addrScheme = .serpentine) (i : Nat) :
    c.unmap i = (c.serpentineColumn (c.row i) (c.column i), c.row i) := by
  rw [Cfg.unmap, hs]
  exact (apply_ite (·, c.row i) ..).symm

theorem Cfg.unmap_own {table : List Nat} (hs : c.addrScheme = .own table) (i : Nat) :
    c.unmap i = (c.column (table.idxOf i), c.row (table.idxOf i)) := by
  rw [Cfg.unmap, hs]
  rfl

end

/-- Settles O45: `map_linear`, and `map_serpentine` on an even and on an odd row. -/
theorem schemeFormulas : Obligations.SchemeFormulas := by
  intro c x y
  refine ⟨fun hs => Cfg.map_linear hs x y, fun hs heven => ?_, fun hs hodd hx => ?_⟩
  · rw [Cfg.map_serpentine hs, c.serpentineColumn_of_even heven]
    rfl
  · rw [Cfg.map_serpentine hs, c.serpentineColumn_of_odd hodd, Cfg.pixelNumber]
    push_cast
    omega

/-- Settles O46: SERPENTINE is LINEAR after the row's reversal, which moves no column here. -/
theorem schemesAgree : Obligations.SchemesAgree := by
  intro c x y hx hy hagree
  have hcolumn := Cfg.serpentineColumn_of_agree hx hy hagree
  calc ({ c with addrScheme := .linear } : Cfg).map x y = c.pixelNumber x y := Cfg.map_linear rfl x y
    _ = c.pixelNumber (c.serpentineColumn y x) y := by rw [hcolumn]
    _ = ({ c with addrScheme := .serpentine } : Cfg).map x y :=
      (Cfg.map_serpentine (c := { c with addrScheme := .serpentine }) rfl x y).symm

/-! ### The inverse (R173) -/

/-- R173: the inverse gives a coordinate back. -/
theorem Cfg.unmap_map {c : Cfg} (hv : c.valid = true) {x y : Nat} (hx : x < c.width) (hy : y < c.height) :
    c.unmap (c.map x y) = (x, y) := by
  cases hs : c.addrScheme with
  | linear => rw [Cfg.map_linear hs, Cfg.unmap_linear hs, Cfg.column_pixelNumber hx, Cfg.row_pixelNumber hx]
  | serpentine =>
    have hplace := Cfg.serpentineColumn_lt hx y
    rw [Cfg.map_serpentine hs, Cfg.unmap_serpentine hs, Cfg.column_pixelNumber hplace, Cfg.row_pixelNumber hplace,
      Cfg.serpentineColumn_serpentineColumn hx]
  | own table =>
    have hscheme := Cfg.valid.scheme hv
    rw [hs] at hscheme
    obtain ⟨hlength, -, hnodup⟩ := (AddrScheme.bijective_own _ _).1 hscheme
    have hk : c.pixelNumber x y < table.length := hlength ▸ Cfg.pixelNumber_lt hx hy
    rw [Cfg.map_own hs hk, Cfg.unmap_own hs, hnodup.idxOf_getElem, Cfg.column_pixelNumber hx, Cfg.row_pixelNumber hx]

/-- Settles O44: `map_lt` and `unmap_map`; an index is MAP of some coordinate, and its inverse gives that one back. -/
theorem mapIsBijection : Obligations.MapIsBijection := by
  intro c hv
  refine ⟨fun x y hx hy => ⟨Cfg.map_lt hv hx hy, Cfg.unmap_map hv hx hy⟩, fun i hi => ?_⟩
  obtain ⟨x, y, hx, hy, rfl⟩ := Cfg.exists_map_eq hv hi
  rw [Cfg.unmap_map hv hx hy]
  exact ⟨hx, hy, rfl⟩

/-! ### The correction lookup (R174 to R177) -/

theorem Cfg.region_iff (c : Cfg) (x y : Nat) : c.region x y = true ↔ y + 1 = c.height ∧ x < c.corrN := by
  simp [Cfg.region]

theorem LutEntry.permute_corrLut_true (t : Pixel) : (corrLut true).permute t = ⟨t.g, t.r, t.b⟩ := rfl

/-- R177: the exchange is an involution. -/
theorem LutEntry.permute_corrLut_true_twice (t : Pixel) : (corrLut true).permute ((corrLut true).permute t) = t := by
  rw [LutEntry.permute_corrLut_true, LutEntry.permute_corrLut_true]

/-- Settles O48: `region_iff` where HEIGHT is at least 1; the two entries of the table permute as
`permute_corrLut_false` and `permute_corrLut_true` say. -/
theorem correctionLookup : Obligations.CorrectionLookup := by
  refine ⟨fun c x y hv => ?_, fun e t => ⟨rfl, rfl, rfl, rfl⟩, fun r g b => ?_, LutEntry.permute_corrLut_true_twice⟩
  · have hheight := Cfg.valid.height_pos hv
    rw [Cfg.region_iff]
    omega
  · exact ⟨LutEntry.permute_corrLut_false _, LutEntry.permute_corrLut_true _⟩

end Sys2Proof

/-! PROOFS of the family 60_exceptions: the one error that is signalled, the priority of simultaneous events, and that
under the invariant only an overflow of INQ stops the machine. -/

namespace Sys2Proof

theorem Instr.takesByte_iff (i : Instr) :
    i.takesByte = true ↔ i ∈ [Instr.s1Miss, .s1Hit, .s2Again, .s2Start, .s2Miss, .rpStore, .rpLast] := by
  cases i <;> decide

namespace Machine

/-! ### The errors (R190 to R194) -/

/-- R121, R192: `State.operation_eq_rpTimeout_iff`, said of the selected operation. -/
theorem State.truncationPulse_iff_op (s : State) : s.truncationPulse = true ↔ s.op = some .rpTimeout := by
  rw [State.op_eq, Option.some.injEq, s.operation_eq_rpTimeout_iff]

/-- R192: the trap goes to SEEK1, so its pulse lasts one cycle. -/
theorem State.truncationPulse_truncationTrap (s : State) : s.truncationTrap.truncationPulse = false :=
  State.truncationPulse_of_ne_read (by simp)

theorem errorOf_eq_resync_iff (i : Instr) : errorOf i = some .resync ↔ i = .s1Miss ∨ i = .s2Miss := by
  cases i <;> decide

theorem errorOf_eq_truncatedPayload_iff (i : Instr) : errorOf i = some .truncatedPayload ↔ i = .rpTimeout := by
  cases i <;> decide

theorem errorOf_ne_configuration (i : Instr) : errorOf i ≠ some .configuration := by
  cases i <;> decide

/-- Settles O29: both outputs are the truncation pulse, which shows in the trap's cycle and not after it; which
operation raises which error is read off `errorOf`. -/
theorem onlyTruncationIsSignalled : Obligations.OnlyTruncationIsSignalled := by
  refine ⟨State.truncationPulse_iff_op, State.truncationPulse_iff_op, fun s t hexec => ?_, errorOf_eq_resync_iff,
    errorOf_eq_truncatedPayload_iff, errorOf_ne_configuration⟩
  obtain rfl := execRpTimeout_next hexec
  exact ⟨s.truncationPulse_truncationTrap, s.truncationPulse_truncationTrap⟩

/-! ### Priority (R197) -/

/-- Settles O30: `rst_i` alone selects RESET, without it the expired timer alone the trap; and a byte offered to a PHASE
that is ready goes to an operation that takes one (`State.operation_takesByte`). -/
theorem eventPriority : Obligations.EventPriority := by
  refine ⟨fun s hrst => ?_, fun s hrst hphase htmr => ⟨State.op_of_read_expired hrst hphase htmr, fun t hexec => ?_⟩,
    fun s b rest hrst hready hq => ?_⟩
  · rw [State.op_eq, s.operation_eq_reset_iff.2 hrst]
  · obtain rfl := execRpTimeout_next hexec
    exact ⟨rfl, rfl⟩
  · have hoffered : (s.rxReady && s.rxValid) = true := Bool.and_eq_true_iff.2 ⟨hready, by simp [State.rxValid, hq]⟩
    have htakes : s.sel.operation.takesByte = true := (State.operation_takesByte hrst).trans hoffered
    refine ⟨s.sel.operation, s.sel.operation.takesByte_iff.1 htakes, s.op_eq, fun t hexec => ?_⟩
    rw [exec_inq_of_takesByte htakes hexec, hq, List.tail_cons]

/-! ### Progress (R54, R55, R190) -/

/-- The operation selected in a state answers a next state. -/
def State.Proceeds (s : State) : Prop :=
  ∃ i t, s.op = some i ∧ exec i s = .next t

section
variable {s : State} (hrst : s.inp.rst = false)
include hrst

theorem State.proceeds_of_seek1 (hphase : s.phase = .seek1) : s.Proceeds := by
  cases hq : s.inq with
  | nil => exact ⟨_, _, State.op_of_seek1_empty hrst hq hphase, rfl⟩
  | cons b rest =>
    have hop := State.op_of_seek1_byte hrst hq hphase
    split at hop
    · exact ⟨_, _, hop, exec_s1Hit_of_byte hq⟩
    · exact ⟨_, _, hop, exec_s1Miss_of_byte hq⟩

theorem State.proceeds_of_seek2 (hphase : s.phase = .seek2) : s.Proceeds := by
  cases hq : s.inq with
  | nil => exact ⟨_, _, State.op_of_seek2_empty hrst hq hphase, rfl⟩
  | cons b rest =>
    have hop := State.op_of_seek2_byte hrst hq hphase
    split at hop
    · exact ⟨_, _, hop, exec_s2Start_of_byte hq⟩
    · split at hop
      · exact ⟨_, _, hop, exec_s2Again_of_byte hq⟩
      · exact ⟨_, _, hop, exec_s2Miss_of_byte hq⟩

/-- R54: a byte is stored at RXCNT, which lies below DATA_LENGTH (R32 (a)). -/
theorem State.proceeds_of_read (hphase : s.phase = .read) (hroom : s.rxcnt < s.cfg.dataLength) : s.Proceeds := by
  by_cases htmr : s.tmr = s.cfg.timeoutCycles
  · exact ⟨_, _, State.op_of_read_expired hrst hphase htmr, rfl⟩
  cases hq : s.inq with
  | nil => exact ⟨_, _, State.op_of_read_empty hrst hq hphase htmr, rfl⟩
  | cons b rest =>
    have hop := State.op_of_read_byte hrst hq hphase htmr
    split at hop
    · next hlast => exact ⟨_, _, hop, exec_rpLast_of_last hq hlast⟩
    · exact ⟨_, _, hop, exec_rpStore_of_lt hq hroom⟩

/-- R54, R55: PX and PY are a coordinate of the matrix, so its triple and its index exist. -/
theorem State.proceeds_of_apply (hphase : s.phase = .apply) (hv : s.cfg.valid = true) (hpx : s.px < s.cfg.width)
    (hpy : s.py < s.cfg.height) : s.Proceeds := by
  have hop := State.op_of_apply hrst hphase
  split at hop
  · next hlast => exact ⟨_, _, hop, exec_mwWrlast_of_last hv hlast.1 hlast.2⟩
  · exact ⟨_, _, hop, exec_mwWrpix_of_lt hv hpx hpy⟩

/-- R55: PX is a column of the region, so its index exists. -/
theorem State.proceeds_of_correct (hphase : s.phase = .correct) (hv : s.cfg.valid = true)
    (hpx : s.px < s.cfg.corrN) : s.Proceeds := by
  have hop := State.op_of_correct hrst hphase
  split at hop
  · next hlast => exact ⟨_, _, hop, exec_mwSwlast_of_last hv hlast⟩
  · exact ⟨_, _, hop, exec_mwSwap_of_lt hv hpx⟩

theorem State.proceeds_of_present (hphase : s.phase = .present) : s.Proceeds := by
  have hop := State.op_of_present hrst hphase
  split at hop
  · exact ⟨_, _, hop, rfl⟩
  · exact ⟨_, _, hop, rfl⟩

end

/-- R32, PHASE by PHASE: the invariant gives the bounds that the selected operation's accesses need. -/
theorem Inv.proceeds {s : State} (hinv : Inv s) : s.Proceeds := by
  cases hrst : s.inp.rst with
  | true => exact ⟨.reset, _, by rw [State.op_eq, s.operation_eq_reset_iff.2 hrst], rfl⟩
  | false =>
    cases hphase : s.phase with
    | seek1 => exact State.proceeds_of_seek1 hrst hphase
    | seek2 => exact State.proceeds_of_seek2 hrst hphase
    | read => exact State.proceeds_of_read hrst hphase hinv.rxcntRange
    | apply => exact State.proceeds_of_apply hrst hphase hinv.config hinv.pxRange hinv.pyRange
    | correct =>
      obtain ⟨-, -, hpx⟩ := hinv.correctPx hphase
      exact State.proceeds_of_correct hrst hphase hinv.config hpx
    | present => exact State.proceeds_of_present hrst hphase
    | code6 => exact absurd hinv.legal (by simp [hphase, Phase.legal])
    | code7 => exact absurd hinv.legal (by simp [hphase, Phase.legal])

/-- Settles O41: where no arrival overflows INQ, the step is the operation of its cycle, and that proceeds
(`Inv.proceeds`), since the cycle's start keeps the invariant. -/
theorem onlyInputOverflowStops : Obligations.OnlyInputOverflowStops := by
  intro s hinv
  cases hoverflow : s.willOverflow with
  | true => exact .inr ⟨rfl, step_of_willOverflow hinv.config hoverflow⟩
  | false =>
    obtain ⟨i, t, hop, hexec⟩ := hinv.beginCycle.proceeds
    exact .inl ⟨t, (step_of_op hinv.config hoverflow hop).trans hexec⟩

end Machine

end Sys2Proof

/-! PROOFS of the family 70_reset_and_hazards: the RESET operation, and that the clock-free view of R235 admits every
cycle without a reset. -/

namespace Sys2Proof

/-! ### Several writes to one memory -/

section
variable {α : Type}

/-- The cells `val k` written at the addresses `idx k`, for `k` from 0 to below `n`. -/
def Mem.writeAll (m : Mem α) (idx : Nat → Nat) (val : Nat → α) (n : Nat) : Mem α :=
  (List.range n).foldl (fun m k => Mem.write m (idx k) (val k)) m

variable (m : Mem α) (idx : Nat → Nat) (val : Nat → α) (n : Nat)

theorem Mem.writeAll_succ :
    m.writeAll idx val (n + 1) = Mem.write (m.writeAll idx val n) (idx n) (val n) := by
  simp [Mem.writeAll, List.range_succ]

variable {m idx val n}

theorem Mem.read_writeAll_of_ne {a : Nat} (h : ∀ k, k < n → a ≠ idx k) :
    Mem.read (m.writeAll idx val n) a = Mem.read m a := by
  induction n with
  | zero => rfl
  | succ n ih =>
    rw [Mem.writeAll_succ, Mem.read_write_of_ne _ _ (h n (by omega)), ih fun k hk => h k (by omega)]

/-- At an address written once, whatever else is written elsewhere. -/
theorem Mem.read_writeAll {k : Nat} (hk : k < n) (hinj : ∀ j, j < n → idx k = idx j → k = j) :
    Mem.read (m.writeAll idx val n) (idx k) = some (val k) := by
  induction n with
  | zero => omega
  | succ n ih =>
    rw [Mem.writeAll_succ]
    by_cases hlast : k = n
    · rw [hlast, Mem.read_write_same]
    · have hne : idx k ≠ idx n := fun heq => hlast (hinj n (by omega) heq)
      rw [Mem.read_write_of_ne _ _ hne]
      exact ih (by omega) fun j hj => hinj j (by omega)

end

/-- R81: the physical index of a coordinate's payload pixel. -/
theorem Cfg.pixelIndex_pixelNumber {c : Cfg} {x : Nat} (hx : x < c.width) (y : Nat) :
    c.pixelIndex (c.pixelNumber x y) = c.map x y := by
  rw [Cfg.pixelIndex, Cfg.column_pixelNumber hx, Cfg.row_pixelNumber hx]

namespace Machine

theorem StorageForm.writeAll_pix {c : Cfg} {pbuf : Mem Byte} {pix : Mem Pixel} (h : StorageForm c pbuf pix)
    {idx : Nat → Nat} {val : Nat → Pixel} {n : Nat} (hidx : ∀ k, k < n → idx k < c.numPixels) :
    StorageForm c pbuf (pix.writeAll idx val n) := by
  induction n with
  | zero => exact h
  | succ n ih =>
    rw [Mem.writeAll_succ]
    exact (ih fun k hk => hidx k (by omega)).write_pix (hidx n (by omega)) _

/-! ### RESET (R220, R231) -/

/-- R220, R231: no pulse in a RESET cycle (log entry 7). -/
theorem State.truncationPulse_of_rst {s : State} (h : s.inp.rst = true) : s.truncationPulse = false := by
  simp [State.truncationPulse, h]

theorem State.inqAfterReady_of_ready {s : State} (h : s.rxReady = true) : s.inqAfterReady = s.inq.tail :=
  if_pos h

theorem State.inqAfterReady_of_not_ready {s : State} (h : s.rxReady = false) : s.inqAfterReady = s.inq :=
  if_neg (Bool.eq_false_iff.1 h)

/-- Settles O11: `rst_i` alone selects RESET (`State.operation_eq_reset_iff`), and of INQ it leaves what the handshake
does. -/
theorem resetOperation : Obligations.ResetOperation := by
  intro s hrst
  have hop : s.op = some .reset := by rw [s.op_eq, s.operation_eq_reset_iff.2 hrst]
  have hpulse := State.truncationPulse_of_rst hrst
  exact ⟨hop, hpulse, hpulse, _, rfl, rfl, rfl, rfl, rfl, rfl, rfl, rfl, rfl, rfl, rfl,
    State.inqAfterReady_of_ready, State.inqAfterReady_of_not_ready⟩

/-- Settles O12: the expired timer holds `rx_ready_o` at 0, and `rst_i` the two pulses. -/
theorem resetWithExpiredTimer : Obligations.ResetWithExpiredTimer := by
  intro s hrst hphase htmr
  have hpulse := State.truncationPulse_of_rst hrst
  have hready : s.rxReady = false := by simp [Bool.eq_false_iff, s.rxReady_iff, hphase, htmr]
  exact ⟨hpulse, hpulse, hready, _, rfl, rfl, State.inqAfterReady_of_not_ready hready⟩

/-! ### Sequences of event-level steps (R235) -/

/-- Some sequence of event-level steps leads from one state to another and emits the events listed. -/
inductive EvReaches (c : Cfg) (epoch : Nat) : EvState → List Event → EvState → Prop
  | refl (q : EvState) : EvReaches c epoch q [] q
  | head {a : EvAction} {q q' q'' : EvState} {es es' : List Event} (h : evStep c epoch a q = some (q', es))
    (h' : EvReaches c epoch q' es' q'') : EvReaches c epoch q (es ++ es') q''

section
variable {c : Cfg} {epoch : Nat} {q q' q'' : EvState} {es es' : List Event}

theorem EvReaches.exists_evRun (h : EvReaches c epoch q es q') : ∃ as, evRun c epoch as q = some (q', es) := by
  induction h with
  | refl q => exact ⟨[], rfl⟩
  | @head a _ _ _ _ _ hstep _ ih =>
    obtain ⟨as, has⟩ := ih
    exact ⟨a :: as, by simp only [evRun, hstep, has]⟩

theorem EvReaches.trans (h : EvReaches c epoch q es q') (h' : EvReaches c epoch q' es' q'') :
    EvReaches c epoch q (es ++ es') q'' := by
  induction h with
  | refl q => exact h'
  | head hstep _ ih =>
    rw [List.append_assoc]
    exact .head hstep (ih h')

theorem EvReaches.of_evStep {a : EvAction} (h : evStep c epoch a q = some (q', es)) : EvReaches c epoch q es q' := by
  rw [← List.append_nil es]
  exact .head h (.refl q')

/-- R235 (a), byte by byte. -/
theorem EvReaches.of_arrivals (q : EvState) (bs : List Byte) :
    EvReaches c epoch q [] { q with inq := q.inq ++ bs } := by
  induction bs generalizing q with
  | nil =>
    rw [List.append_nil]
    exact .refl q
  | cons b bs ih =>
    have hrest := ih { q with inq := q.inq ++ [b] }
    rw [List.append_assoc] at hrest
    exact .head (a := .arrive b) rfl hrest

end

/-! ### The abstraction, PHASE by PHASE -/

/-- The Frame Decoder runs. -/
def State.Receives (s : State) : Prop := s.phase = .seek1 ∨ s.phase = .seek2 ∨ s.phase = .read

/-- The Matrix Writer runs, or the driver reads. -/
def State.Writes (s : State) : Prop := s.phase = .apply ∨ s.phase = .correct ∨ s.phase = .present

theorem State.abstract_of_receives {s : State} (h : s.Receives) :
    s.abstract = ⟨s.fdState, s.pbuf, s.pix, s.inq, false⟩ := by
  rcases h with h | h | h <;> simp only [State.abstract, h]

theorem State.abstract_of_writes {s : State} (h : s.Writes) :
    s.abstract = ⟨.seek1, s.pbuf, s.abstract.pix, s.inq, true⟩ := by
  rcases h with h | h | h <;> simp only [State.abstract, State.fdState, h]

/-! ### The cycle's start, and the truncation trap -/

/-- The bytes that a cycle brings arrive. -/
theorem reaches_beginCycle (s : State) : EvReaches s.cfg s.epoch s.abstract [] s.beginCycle.abstract :=
  .of_arrivals s.abstract _

/-- R53, R235 (c): the bytes that survive the flush arrive after the timeout, the others not at all. -/
theorem reaches_truncationTrap {s : State} (hphase : s.phase = .read) :
    EvReaches s.cfg s.epoch s.abstract [.truncatedPayload] s.beginCycle.truncationTrap.abstract := by
  have habstract : s.abstract = ⟨.read s.rxcnt, s.pbuf, s.pix, s.inq, false⟩ := by
    rw [State.abstract_of_receives (.inr (.inr hphase)), State.fdState, hphase]
  rw [habstract]
  have htimeout : evStep s.cfg s.epoch .timeout ⟨.read s.rxcnt, s.pbuf, s.pix, s.inq, false⟩ =
      some (⟨.seek1, s.pbuf, s.pix, [], false⟩, [.truncatedPayload]) := rfl
  exact .head htimeout (.of_arrivals _ s.beginCycle.flushed)

/-! ### A byte is taken (R95) -/

/-- What an effect of the per-byte view makes of PBUF. -/
def FdEffect.stored : FdEffect → Mem Byte → Mem Byte
  | .nothing, m => m
  | .startTimer, m => m
  | .store o b, m => Mem.write m o b
  | .handOver o b, m => Mem.write m o b

/-- A byte that does not complete a payload. -/
theorem EvState.takeByte_of_fd {c : Cfg} {q : EvState} {b : Byte} {p : FdState} {e : FdEffect}
    (hfd : fd c q.dec b = (p, e)) (he : ∀ o b', e ≠ .handOver o b') (epoch : Nat) (rest : List Byte) :
    q.takeByte c epoch b rest = ({ q with dec := p, inq := rest, pbuf := e.stored q.pbuf }, []) := by
  cases e with
  | handOver o b' => exact absurd rfl (he o b')
  | _ => simp only [EvState.takeByte, hfd, FdEffect.stored]

section
variable {s t : State} {b : Byte} {rest : List Byte} (hs : s.Receives) (hq : s.inq = b :: rest)
include hs hq

theorem evStep_take (c : Cfg) (epoch : Nat) :
    evStep c epoch .take s.abstract = some (s.abstract.takeByte c epoch b rest) := by
  rw [State.abstract_of_receives hs, hq]
  rfl

/-- A cycle that takes a byte short of the last is one event-level step. -/
theorem reaches_of_take {e : FdEffect} (ht : t.Receives) (hfd : fd s.cfg s.fdState b = (t.fdState, e))
    (he : ∀ o b', e ≠ .handOver o b') (hpbuf : t.pbuf = e.stored s.pbuf) (hpix : t.pix = s.pix)
    (hinq : t.inq = rest) : EvReaches s.cfg s.epoch s.abstract [] t.abstract := by
  refine .of_evStep ((evStep_take hs hq _ _).trans (congrArg some ?_))
  rw [EvState.takeByte_of_fd (q := s.abstract) hfd he, State.abstract_of_receives hs, State.abstract_of_receives ht,
    hpbuf, hpix, hinq]

end

/-! ### The Matrix Writer's work, done at once (R149, R178) -/

theorem frameImage_eq_writeAll (c : Cfg) (payload : Nat → Byte) (pix : Mem Pixel) :
    frameImage c payload pix =
      pix.writeAll c.pixelIndex
        (fun k => (corrLut (c.region (c.column k) (c.row k))).permute
          ⟨payload (3 * k), payload (3 * k + 1), payload (3 * k + 2)⟩)
        c.numPixels := rfl

theorem swapColumns_eq_writeAll (c : Cfg) (old : Nat → Pixel) (x n : Nat) (pix : Mem Pixel) :
    swapColumns c old x n pix =
      pix.writeAll (fun j => c.map (x + j) (c.height - 1))
        (fun j => (corrLut true).permute (old (c.map (x + j) (c.height - 1)))) n := rfl

section
variable {s : State} (hv : s.cfg.valid = true) {x y : Nat} (hx : x < s.cfg.width) (hy : y < s.cfg.height)
include hv hx hy

/-- R178: one pass over the payload, each triple through the lookup. -/
theorem read_frameImage :
    Mem.read (frameImage s.cfg s.pbufByte s.pix) (s.cfg.map x y) =
      some ((corrLut (s.cfg.region x y)).permute (s.payloadTriple x y)) := by
  have hnumber := Cfg.pixelNumber_lt hx hy
  rw [frameImage_eq_writeAll, ← Cfg.pixelIndex_pixelNumber hx,
    Mem.read_writeAll hnumber fun j hj => Cfg.pixelIndex_inj hv hnumber hj,
    Cfg.column_pixelNumber hx, Cfg.row_pixelNumber hx]
  rfl

/-- R148: the columns from PX on are exchanged. -/
theorem read_swapColumns :
    Mem.read (swapColumns s.cfg s.pixel s.px (s.cfg.corrN - s.px) s.pix) (s.cfg.map x y) =
      if y + 1 = s.cfg.height ∧ s.px ≤ x ∧ x < s.cfg.corrN then
        some ((corrLut true).permute (s.pixel (s.cfg.map x y)))
      else Mem.read s.pix (s.cfg.map x y) := by
  have hcorrN := Cfg.valid.corrN_le hv
  rw [swapColumns_eq_writeAll]
  split
  · next h =>
    obtain ⟨hrow, hfirst, hlast⟩ := h
    obtain ⟨k, rfl⟩ := Nat.exists_eq_add_of_le hfirst
    obtain rfl : y = s.cfg.height - 1 := by omega
    refine Mem.read_writeAll (idx := fun j => s.cfg.map (s.px + j) (s.cfg.height - 1)) (by omega) fun j hj heq => ?_
    obtain ⟨hcolumn, -⟩ := Cfg.map_inj hv hx hy (by omega) hy heq
    omega
  · next h =>
    refine Mem.read_writeAll_of_ne fun j hj heq => h ?_
    obtain ⟨hcolumn, hrow⟩ := Cfg.map_inj hv hx hy (by omega) (by omega) heq
    omega

end

section
variable {s t : State} (hinv : Inv s) (hs : s.Writes)
include hinv hs

/-- R149: whatever is done of the Matrix Writer's work, the abstraction shows the finished image. -/
theorem Inv.read_abstract_pix {x y : Nat} (hx : x < s.cfg.width) (hy : y < s.cfg.height) :
    Mem.read s.abstract.pix (s.cfg.map x y) =
      some ((corrLut (s.cfg.region x y)).permute (s.payloadTriple x y)) := by
  rcases hs with hphase | hphase | hphase
  · simp only [State.abstract, hphase]
    exact read_frameImage hinv.config hx hy
  · obtain ⟨-, -, hpx⟩ := hinv.correctPx hphase
    have hread := hinv.corrected hphase x y hx hy
    simp only [State.abstract, hphase]
    rw [read_swapColumns hinv.config hx hy, State.pixel, hread, Option.getD_some]
    split
    · next h =>
      obtain ⟨hrow, hfirst, hregion⟩ := h
      have hpending : ¬ (y + 1 = s.cfg.height ∧ x < s.px) := by omega
      rw [Cfg.region_of_mem ⟨hrow, hregion⟩, decide_eq_false hpending, LutEntry.permute_corrLut_false]
    · next h =>
      have hdone : (y + 1 = s.cfg.height ∧ x < s.px) ↔ (y + 1 = s.cfg.height ∧ x < s.cfg.corrN) := by omega
      rw [Cfg.region, ← Bool.decide_and, decide_eq_decide.2 hdone]
  · simp only [State.abstract, hphase]
    exact hinv.presented hphase x y hx hy

theorem Inv.abstract_storage : StorageForm s.cfg s.pbuf s.abstract.pix := by
  have hheight := Cfg.valid.height_pos hinv.config
  have hcorrN := Cfg.valid.corrN_le hinv.config
  rcases hs with hphase | hphase | hphase
  · simp only [State.abstract, hphase, frameImage_eq_writeAll]
    exact hinv.storage.writeAll_pix fun k hk => Cfg.pixelIndex_lt hinv.config hk
  · simp only [State.abstract, hphase, swapColumns_eq_writeAll]
    exact hinv.storage.writeAll_pix fun k hk => Cfg.map_lt hinv.config (by omega) (by omega)
  · simp only [State.abstract, hphase]
    exact hinv.storage

/-- Two states of the Matrix Writer with the same payload stand for the same event-level state: both memories list the
finished image and nothing else. -/
theorem Inv.abstract_eq (hinv' : Inv t) (ht : t.Writes) (hcfg : t.cfg = s.cfg) (hpbuf : t.pbuf = s.pbuf)
    (hepoch : t.epoch = s.epoch) (hinq : t.inq = s.inq) : t.abstract = s.abstract := by
  have hstorage := hinv.abstract_storage hs
  have hstorage' := hinv'.abstract_storage ht
  have hpix : t.abstract.pix = s.abstract.pix := by
    refine Mem.ext_read _ _ hstorage'.pixForm hstorage.pixForm fun i => ?_
    by_cases hi : i < s.cfg.numPixels
    · obtain ⟨x, y, hx, hy, rfl⟩ := Cfg.exists_map_eq hinv.config hi
      have hread' := hinv'.read_abstract_pix ht (x := x) (y := y) (hcfg ▸ hx) (hcfg ▸ hy)
      rw [hcfg, State.payloadTriple_congr hcfg hpbuf hepoch] at hread'
      rw [hread', hinv.read_abstract_pix hs hx hy]
    · rw [Mem.read_eq_none_of_below _ _ i hstorage.pixBelow (by omega),
        Mem.read_eq_none_of_below _ _ i hstorage'.pixBelow (by rw [hcfg]; omega)]
  rw [State.abstract_of_writes ht, State.abstract_of_writes hs, hpix, hpbuf, hinq]

end

/-! ### The operation of a cycle -/

/-- What the event-level machine shows of a cycle (R236): the error pulse, and the image when a payload is complete. -/
def shownEvents (s t : State) : List Event :=
  (if s.outputs.errTrunc then [.truncatedPayload] else []) ++
    (if s.op = some .rpLast then [.present (t.abstract.image s.cfg s.epoch)] else [])

theorem shownEvents_eq_nil {s : State} {i : Instr} (hop : s.op = some i) (hpulse : s.truncationPulse = false)
    (hi : i ≠ .rpLast) (t : State) : shownEvents s t = [] := by
  simp [shownEvents, State.outputs, hpulse, hop, hi]

/-- `s`, once its cycle has begun, comes to `t` by the operation selected, with no reset and the timer not expired. -/
structure QuietCycle (s t : State) : Prop where
  next  : exec s.sel.operation s = .next t
  rst   : s.inp.rst = false
  pulse : s.truncationPulse = false

/-- R235: the event-level machine can follow, and shows what the cycle shows. -/
def Followed (s t : State) : Prop :=
  EvReaches s.cfg s.epoch s.abstract (shownEvents s t) t.abstract

section
variable {i : Instr} {s t u : State} {b : Byte} {rest : List Byte} (h : QuietCycle s t)
include h

/-- The selected operation is known, and with it the next state. -/
theorem QuietCycle.eq_of_op (hop : s.op = some i) (hexec : exec i s = .next u) : t = u := by
  obtain rfl : s.sel.operation = i := Option.some.inj (s.op_eq.symm.trans hop)
  exact Host.Outcome.next.inj (h.next.symm.trans hexec)

/-- A cycle that shows nothing. -/
theorem QuietCycle.followed_of_op (hop : s.op = some i) (hexec : exec i s = .next u) (hi : i ≠ .rpLast)
    (hreaches : EvReaches s.cfg s.epoch s.abstract [] u.abstract) : Followed s t := by
  obtain rfl := h.eq_of_op hop hexec
  rwa [Followed, shownEvents_eq_nil hop h.pulse hi]

theorem QuietCycle.followed_of_seek1 (hphase : s.phase = .seek1) : Followed s t := by
  have hs : s.Receives := .inl hphase
  cases hq : s.inq with
  | nil => exact h.followed_of_op (State.op_of_seek1_empty h.rst hq hphase) rfl (by decide) (.refl _)
  | cons b rest =>
    have hop := State.op_of_seek1_byte h.rst hq hphase
    have hfd : fd s.cfg s.fdState b = (if b = s.cfg.marker1 then .seek2 else .seek1, .nothing) := by
      rw [State.fdState, hphase, fd_seek1]
    by_cases hm1 : b = s.cfg.marker1
    · rw [if_pos hm1] at hop hfd
      exact h.followed_of_op hop (exec_s1Hit_of_byte hq) (by decide)
        (reaches_of_take hs hq (.inr (.inl rfl)) hfd nofun rfl rfl rfl)
    · rw [if_neg hm1] at hop hfd
      exact h.followed_of_op hop (exec_s1Miss_of_byte hq) (by decide)
        (reaches_of_take hs hq (.inl rfl) hfd nofun rfl rfl rfl)

theorem QuietCycle.followed_of_seek2 (hv : s.cfg.valid = true) (hphase : s.phase = .seek2) : Followed s t := by
  have hs : s.Receives := .inr (.inl hphase)
  cases hq : s.inq with
  | nil => exact h.followed_of_op (State.op_of_seek2_empty h.rst hq hphase) rfl (by decide) (.refl _)
  | cons b rest =>
    have hop := State.op_of_seek2_byte h.rst hq hphase
    have hfd : fd s.cfg s.fdState b = if b = s.cfg.marker2 then (.read 0, .startTimer)
        else (if b = s.cfg.marker1 then .seek2 else .seek1, .nothing) := by
      rw [State.fdState, hphase, fd_seek2 hv]
    by_cases hm2 : b = s.cfg.marker2
    · rw [if_pos hm2] at hop hfd
      exact h.followed_of_op hop (exec_s2Start_of_byte hq) (by decide)
        (reaches_of_take hs hq (.inr (.inr rfl)) hfd nofun rfl rfl rfl)
    rw [if_neg hm2] at hop hfd
    by_cases hm1 : b = s.cfg.marker1
    · rw [if_pos hm1] at hop hfd
      exact h.followed_of_op hop (exec_s2Again_of_byte hq) (by decide)
        (reaches_of_take hs hq (.inr (.inl rfl)) hfd nofun rfl rfl rfl)
    · rw [if_neg hm1] at hop hfd
      exact h.followed_of_op hop (exec_s2Miss_of_byte hq) (by decide)
        (reaches_of_take hs hq (.inl rfl) hfd nofun rfl rfl rfl)

/-- R235 (b): the take of the last byte does the whole of the Matrix Writer's work and shows the image. -/
theorem QuietCycle.followed_of_last (hphase : s.phase = .read) (hq : s.inq = b :: rest) (hop : s.op = some .rpLast)
    (hlast : s.rxcnt + 1 = s.cfg.dataLength) : Followed s t := by
  have hs : s.Receives := .inr (.inr hphase)
  have hfd : fd s.cfg s.fdState b = (.seek1, .handOver s.rxcnt b) := by
    rw [State.fdState, hphase]
    exact if_pos hlast
  obtain rfl := h.eq_of_op hop (exec_rpLast_of_last hq hlast)
  have hshown : ∀ u, shownEvents s u = [.present (u.abstract.image s.cfg s.epoch)] := fun u => by
    simp [shownEvents, State.outputs, h.pulse, hop]
  rw [Followed, hshown]
  refine .of_evStep ((evStep_take hs hq _ _).trans (congrArg some ?_))
  rw [State.abstract_of_receives hs]
  simp only [EvState.takeByte, hfd]
  rfl

theorem QuietCycle.followed_of_read (hroom : s.rxcnt < s.cfg.dataLength) (hphase : s.phase = .read) :
    Followed s t := by
  have hs : s.Receives := .inr (.inr hphase)
  have htmr : s.tmr ≠ s.cfg.timeoutCycles := fun heq =>
    Bool.false_ne_true (h.pulse.symm.trans (s.truncationPulse_iff.2 ⟨hphase, heq, h.rst⟩))
  cases hq : s.inq with
  | nil => exact h.followed_of_op (State.op_of_read_empty h.rst hq hphase htmr) rfl (by decide) (.refl _)
  | cons b rest =>
    have hop := State.op_of_read_byte h.rst hq hphase htmr
    by_cases hlast : s.rxcnt + 1 = s.cfg.dataLength
    · rw [if_pos hlast] at hop
      exact h.followed_of_last hphase hq hop hlast
    · rw [if_neg hlast] at hop
      have hfd : fd s.cfg s.fdState b = (.read (s.rxcnt + 1), .store s.rxcnt b) := by
        rw [State.fdState, hphase]
        exact if_neg hlast
      refine h.followed_of_op hop (exec_rpStore_of_lt hq hroom) (by decide)
        (reaches_of_take (e := .store s.rxcnt b) hs hq (.inr (.inr hphase)) ?_ nofun rfl rfl rfl)
      rw [hfd, State.fdState, hphase]

/-- What the Matrix Writer does in a cycle, the abstraction shows as done before it. -/
theorem QuietCycle.followed_of_writing (hinv : Inv s) (hs : s.Writes) (hop : s.op = some i)
    (hexec : exec i s = .next u) (hi : i ≠ .rpLast) (hu : u.Writes) (hcfg : u.cfg = s.cfg)
    (hpbuf : u.pbuf = s.pbuf) (hepoch : u.epoch = s.epoch) (hinq : u.inq = s.inq) : Followed s t := by
  have hinv' : Inv t := exec_operation_keeps_inv hinv h.next
  obtain rfl := h.eq_of_op hop hexec
  have hsame : t.abstract = s.abstract := hinv.abstract_eq hs hinv' hu hcfg hpbuf hepoch hinq
  exact h.followed_of_op hop hexec hi (hsame ▸ .refl _)

theorem QuietCycle.followed_of_apply (hinv : Inv s) (hphase : s.phase = .apply) : Followed s t := by
  have hs : s.Writes := .inl hphase
  have hop := State.op_of_apply h.rst hphase
  by_cases hlast : s.px + 1 = s.cfg.width ∧ s.py + 1 = s.cfg.height
  · rw [if_pos hlast] at hop
    obtain ⟨hpx, hpy⟩ := hlast
    refine h.followed_of_writing hinv hs hop (exec_mwWrlast_of_last hinv.config hpx hpy) (by decide) ?_
      rfl rfl rfl rfl
    by_cases hcorrN : s.cfg.corrN = 0
    · exact .inr (.inr (if_pos hcorrN))
    · exact .inr (.inl (if_neg hcorrN))
  · rw [if_neg hlast] at hop
    exact h.followed_of_writing hinv hs hop (exec_mwWrpix_of_lt hinv.config hinv.pxRange hinv.pyRange) (by decide)
      (.inl hphase) rfl rfl rfl rfl

theorem QuietCycle.followed_of_correct (hinv : Inv s) (hphase : s.phase = .correct) : Followed s t := by
  have hs : s.Writes := .inr (.inl hphase)
  have hop := State.op_of_correct h.rst hphase
  obtain ⟨-, -, hpx⟩ := hinv.correctPx hphase
  by_cases hlast : s.px + 1 = s.cfg.corrN
  · rw [if_pos hlast] at hop
    exact h.followed_of_writing hinv hs hop (exec_mwSwlast_of_last hinv.config hlast) (by decide) (.inr (.inr rfl))
      rfl rfl rfl rfl
  · rw [if_neg hlast] at hop
    exact h.followed_of_writing hinv hs hop (exec_mwSwap_of_lt hinv.config hpx) (by decide) (.inr (.inl hphase))
      rfl rfl rfl rfl

/-- R232: the driver's answer is a step of the event-level machine. -/
theorem QuietCycle.followed_of_present (hphase : s.phase = .present) : Followed s t := by
  have hop := State.op_of_present h.rst hphase
  cases hdone : s.inp.done with
  | true =>
    rw [hdone, if_pos rfl] at hop
    refine h.followed_of_op hop rfl (by decide) (.of_evStep (a := .done) ?_)
    rw [State.abstract_of_writes (.inr (.inr hphase))]
    simp only [evStep, State.abstract, State.fdState, hphase, if_true]
  | false =>
    rw [hdone, if_neg Bool.false_ne_true] at hop
    exact h.followed_of_op hop rfl (by decide) (.refl _)

/-- Every such cycle, PHASE by PHASE; codes 6 and 7 the invariant excludes. -/
theorem QuietCycle.followed (hinv : Inv s) : Followed s t := by
  cases hphase : s.phase with
  | seek1 => exact h.followed_of_seek1 hphase
  | seek2 => exact h.followed_of_seek2 hinv.config hphase
  | read => exact h.followed_of_read hinv.rxcntRange hphase
  | apply => exact h.followed_of_apply hinv hphase
  | correct => exact h.followed_of_correct hinv hphase
  | present => exact h.followed_of_present hphase
  | code6 => exact absurd hinv.legal (by simp [hphase, Phase.legal])
  | code7 => exact absurd hinv.legal (by simp [hphase, Phase.legal])

end

/-- R235 (c): a cycle of the truncation trap. -/
theorem reaches_of_pulse {s t : State} (hpulse : s.beginCycle.truncationPulse = true)
    (hexec : exec s.beginCycle.sel.operation s.beginCycle = .next t) :
    EvReaches s.cfg s.epoch s.abstract (shownEvents s.beginCycle t) t.abstract := by
  obtain ⟨hphase, -, -⟩ := s.beginCycle.truncationPulse_iff.1 hpulse
  have hop := s.beginCycle.operation_eq_rpTimeout_iff.2 hpulse
  have hshown : shownEvents s.beginCycle t = [.truncatedPayload] := by
    simp [shownEvents, State.outputs, hpulse, State.op_eq, hop]
  rw [hop] at hexec
  obtain rfl := execRpTimeout_next hexec
  rw [hshown]
  exact reaches_truncationTrap hphase

/-- Settles O58: the trap's cycle is a timeout with the surviving bytes after it (`reaches_of_pulse`); in every other
cycle the bytes arrive, and `QuietCycle.followed` says that the operation is at most one event-level step. -/
theorem eventLevelAdmitsCyclesWithoutReset : Obligations.EventLevelAdmitsCyclesWithoutReset := by
  intro s t hinv hrst hstep
  obtain ⟨-, -, hexec⟩ := step_next hstep
  refine EvReaches.exists_evRun (es := shownEvents s.beginCycle t) ?_
  cases hpulse : s.beginCycle.truncationPulse with
  | true => exact reaches_of_pulse hpulse hexec
  | false =>
    have hquiet : QuietCycle s.beginCycle t := ⟨hexec, hrst, hpulse⟩
    exact (reaches_beginCycle s).trans (hquiet.followed hinv.beginCycle)

end Machine

end Sys2Proof
